-- ==== Sys2Proof/Word.lean ====
section
/-! DEFINITION. The words of the block: a byte, a 16-bit measurement or deviation, and the seven-byte
line-coding structure (10_state.md R32, 30_encoding.md R101). Every value is unsigned (00_scope.md R10). -/

namespace Sys2Proof

/-- A byte is 8 bits (R10). -/
abbrev Byte := BitVec 8

/-- A 16-bit unsigned value: a measurement (R124), a deviation (R126), an operand assembled by `u16le` (R66). -/
abbrev Half := BitVec 16

/-- The line-coding structure `lc[0..6]`, raw (R101): `d0 .. d3` are the bytes of `dwRate`, lowest
first, then `bStopBits`, `bParity`, `bDataBits`. -/
structure LineCoding where
  d0 : Byte
  d1 : Byte
  d2 : Byte
  d3 : Byte
  stopBits : Byte
  parity : Byte
  dataBits : Byte
  deriving DecidableEq, Repr

end Sys2Proof
end

