-- ==== Sys2Proof/Syntax.lean ====
section
/-! DEFINITION. The operations: one constructor per row of spec/opcode_table.json (30_encoding.md R92),
with the operands of R99 to R101. -/

namespace Sys2Proof

/-- The operation set (R92). An operation is one packet on the operation port (R90). -/
inductive Instr where
  /-- 0x00 RESET (R290) -/
  | reset
  /-- 0x01 POLL (R192) -/
  | poll
  /-- 0x02 POLL_HW (R251): `flags` and `rxdata` of R100. -/
  | pollHw (flags rxdata : Byte)
  /-- 0x10 BUS_RESET (R122) -/
  | busReset
  /-- 0x11 MEAS (R125): `x = u16le(payload)`. -/
  | meas (x : Half)
  /-- 0x12 USB_OUT (R160): `data[0 .. len-1]`. -/
  | usbOut (data : List Byte)
  /-- 0x13 USB_IN_READY (R164) -/
  | usbInReady
  /-- 0x20 SET_LINE_CODING (R231): the seven bytes of R101. -/
  | setLineCoding (l : LineCoding)
  /-- 0x21 GET_LINE_CODING (R234) -/
  | getLineCoding
  /-- 0x22 SET_CONTROL_LINE_STATE (R236): `v = u16le(payload)`. -/
  | setControlLineState (v : Half)
  /-- 0x30 PINS (R199) -/
  | pins (p : Byte)
  /-- 0x31 TICK (R200) -/
  | tick
  /-- 0x40 RDREG (R238): the register number. -/
  | rdreg (n : Byte)
  deriving DecidableEq, Repr

end Sys2Proof
end

