-- ==== Sys2Proof/WellFormed.lean ====
section
/-! DEFINITION. Which operations a packet can carry. The length byte of a packet is 8 bits
(30_encoding.md R90: `len`, `0 .. 255`), so a USB_OUT of more than 255 data bytes has no encoding; every
other operand is as wide as its field. That a USB_OUT is longer than `PKT_OUT`, or that an operation is
not available under the built backend, is no fault of its form: such a packet is answered STALL (R96). -/

namespace Sys2Proof

/-- The operation has an encoding (R90). -/
def Instr.wellFormed : Instr → Bool
  | .usbOut data => data.length ≤ 255
  | .reset => true
  | .poll => true
  | .pollHw _ _ => true
  | .busReset => true
  | .meas _ => true
  | .usbInReady => true
  | .setLineCoding _ => true
  | .getLineCoding => true
  | .setControlLineState _ => true
  | .pins _ => true
  | .tick => true
  | .rdreg _ => true

end Sys2Proof
end

