-- ==== Sys2Proof/Decode.lean ====
section
/-! DEFINITION. From packets to operations and back (30_encoding.md R90 to R101). Decoding is total on any
byte string and rejects by name; the encoder is written from the same table. The two checks of R94 that
read the configuration (`len > PKT_OUT`, the backend) stand in the operations' meanings, after these, which
is R94's own order (notes/assumptions/8.md). -/

namespace Sys2Proof

/-- The thirteen opcodes (R92). -/
inductive Opcode where
  | reset | poll | pollHw | busReset | meas | usbOut | usbInReady
  | setLineCoding | getLineCoding | setControlLineState | pins | tick | rdreg
  deriving DecidableEq, Repr

/-- All rows of R92's table, in its order. -/
def Opcode.all : List Opcode :=
  [.reset, .poll, .pollHw, .busReset, .meas, .usbOut, .usbInReady,
   .setLineCoding, .getLineCoding, .setControlLineState, .pins, .tick, .rdreg]

/-- The opcode byte (R92). -/
def Opcode.code : Opcode → Byte
  | .reset => 0x00
  | .poll => 0x01
  | .pollHw => 0x02
  | .busReset => 0x10
  | .meas => 0x11
  | .usbOut => 0x12
  | .usbInReady => 0x13
  | .setLineCoding => 0x20
  | .getLineCoding => 0x21
  | .setControlLineState => 0x22
  | .pins => 0x30
  | .tick => 0x31
  | .rdreg => 0x40

/-- The row with a given opcode byte; `none` for a reserved opcode (R95). -/
def Opcode.ofByte (b : Byte) : Option Opcode := Opcode.all.find? (fun o => o.code == b)

/-- Why a byte string is no operation. -/
inductive DecodeError where
  /-- Shorter than two bytes, or its length is not `2 + len` (R94): not a packet. -/
  | notAPacket
  /-- The opcode is not in R92's table (R95). -/
  | reservedOpcode
  /-- The length byte is not the one the opcode's format fixes (R96 (a)). -/
  | wrongLength
  deriving DecidableEq, Repr

/-- `u16le(p) = p[0] + 256 * p[1]` (20_memory.md R66, R62). -/
def u16le (lo hi : Byte) : Half := hi ++ lo

/-- Format `P0` (R91): no payload. -/
def formatP0 (i : Instr) : List Byte → Option Instr
  | [] => some i
  | _ => none

/-- Format `P1` (R91): one payload byte. -/
def formatP1 (f : Byte → Instr) : List Byte → Option Instr
  | [a] => some (f a)
  | _ => none

/-- Format `P2` (R91): two payload bytes. -/
def formatP2 (f : Byte → Byte → Instr) : List Byte → Option Instr
  | [a, b] => some (f a b)
  | _ => none

/-- Format `P7` (R91): the line-coding structure (R101). -/
def formatP7 (f : LineCoding → Instr) : List Byte → Option Instr
  | [a, b, c, d, e, g, h] => some (f ⟨a, b, c, d, e, g, h⟩)
  | _ => none

/-- The operation of an opcode with a payload (R99 to R101), by its format (R92); `none` when the payload's
length is not the format's (R96). USB_OUT's format `PV` takes every payload here: its bound `PKT_OUT` is the
configuration's (notes/assumptions/8.md). -/
def Opcode.operands : Opcode → List Byte → Option Instr
  | .reset => formatP0 .reset
  | .poll => formatP0 .poll
  | .pollHw => formatP2 .pollHw
  | .busReset => formatP0 .busReset
  | .meas => formatP2 (fun lo hi => .meas (u16le lo hi))
  | .usbOut => fun data => some (.usbOut data)
  | .usbInReady => formatP0 .usbInReady
  | .setLineCoding => formatP7 .setLineCoding
  | .getLineCoding => formatP0 .getLineCoding
  | .setControlLineState => formatP2 (fun lo hi => .setControlLineState (u16le lo hi))
  | .pins => formatP1 .pins
  | .tick => formatP0 .tick
  | .rdreg => formatP1 .rdreg

/-- Decoding (R94): a packet is `opcode, len, payload` with exactly `len` payload bytes. The opcode is
looked up before the length is compared with the format's (R262). -/
def decode : List Byte → Except DecodeError Instr
  | op :: len :: payload =>
    if payload.length = len.toNat then
      match Opcode.ofByte op with
      | none => .error .reservedOpcode
      | some o =>
        match o.operands payload with
        | none => .error .wrongLength
        | some i => .ok i
    else .error .notAPacket
  | _ => .error .notAPacket

/-- The low byte of a 16-bit operand, first in the packet (R62). -/
def lowByte (x : Half) : Byte := x.extractLsb' 0 8

/-- The high byte of a 16-bit operand, second in the packet (R62). -/
def highByte (x : Half) : Byte := x.extractLsb' 8 8

/-- The seven bytes in payload order (R101). -/
def LineCoding.bytes (l : LineCoding) : List Byte :=
  [l.d0, l.d1, l.d2, l.d3, l.stopBits, l.parity, l.dataBits]

/-- The row an operation belongs to (R92). -/
def Instr.opcode : Instr → Opcode
  | .reset => .reset
  | .poll => .poll
  | .pollHw _ _ => .pollHw
  | .busReset => .busReset
  | .meas _ => .meas
  | .usbOut _ => .usbOut
  | .usbInReady => .usbInReady
  | .setLineCoding _ => .setLineCoding
  | .getLineCoding => .getLineCoding
  | .setControlLineState _ => .setControlLineState
  | .pins _ => .pins
  | .tick => .tick
  | .rdreg _ => .rdreg

/-- The payload bytes of an operation (R99 to R101). -/
def Instr.payload : Instr → List Byte
  | .reset => []
  | .poll => []
  | .pollHw flags rxdata => [flags, rxdata]
  | .busReset => []
  | .meas x => [lowByte x, highByte x]
  | .usbOut data => data
  | .usbInReady => []
  | .setLineCoding l => l.bytes
  | .getLineCoding => []
  | .setControlLineState v => [lowByte v, highByte v]
  | .pins p => [p]
  | .tick => []
  | .rdreg n => [n]

/-- The packet of an operation (R90). -/
def encode (i : Instr) : List Byte :=
  i.opcode.code :: BitVec.ofNat 8 i.payload.length :: i.payload

/-- The packet whose bits are `w`, numbered as spec/opcode_table.json numbers them: the first word is the
16-bit header word `hdr = opcode * 256 + len` (R91), so the opcode, first on the port, is bits 15..8 and the
length byte bits 7..0; payload byte `j` is bits `16 + 8 j + 7 .. 16 + 8 j`. Bits from `nbits` on are 0, and
the packet has as many payload bytes as its length byte says (notes/assumptions/6.md). -/
def packetOfTableWord (nbits w : Nat) : List Byte :=
  let v := w % 2 ^ nbits
  let len := v % 256
  BitVec.ofNat 8 (v / 256) :: BitVec.ofNat 8 len ::
    (List.range len).map (fun j => BitVec.ofNat 8 (v / 2 ^ (16 + 8 * j)))

/-- The operation this decoder reads from an instruction whose bits are `w` (see `packetOfTableWord`). -/
def decodeTableWord (nbits w : Nat) : Option Instr :=
  match decode (packetOfTableWord nbits w) with
  | .ok i => some i
  | .error _ => none

end Sys2Proof
end

