-- ==== Sys2Proof/Config.lean ====
section
/-! DEFINITION. The configuration `Cfg` (00_scope.md R8): fixed at build time, with its constraints, and
the three presets of R9. A `Cfg` that breaks a constraint cannot be built (93_implementation_defined.md
U29; notes/assumptions/14.md). The model has no free value: the spec fixes every result. -/

namespace Sys2Proof

/-- Which backend is built in (R8: `BACKEND`). -/
inductive Backend where
  | software
  | hardware
  deriving DecidableEq, Repr

/-- The parameters of R8, in its order. -/
structure Params where
  /-- `BACKEND` -/
  backend : Backend
  /-- `CAP_IN`, capacity of the inbound ring. -/
  capIn : Nat
  /-- `CAP_OUT`, capacity of the outbound ring. -/
  capOut : Nat
  /-- `PKT_IN`, largest report to the host. -/
  pktIn : Nat
  /-- `PKT_OUT`, largest packet from the host. -/
  pktOut : Nat
  /-- `OUT_HEADROOM` -/
  outHeadroom : Nat
  /-- `IN_STOP_FREE` -/
  inStopFree : Nat
  /-- `IN_RESUME_FREE` -/
  inResumeFree : Nat
  /-- `INVERT` -/
  invert : Bool
  /-- `SW_TX_CTS_GATE` -/
  swTxCtsGate : Bool
  /-- `TIMER_CLOCK`, ticks per second of the bit timer. -/
  timerClock : Nat
  /-- `OCR_BITS` -/
  ocrBits : Nat
  /-- `TRIM_BITS` -/
  trimBits : Nat
  /-- `SPLIT` -/
  split : Bool
  /-- `SPLIT_PROBE`, a trim value. -/
  splitProbe : Byte
  /-- `TARGET` -/
  target : Half
  /-- `DEFAULT_TRIM`, a trim value. -/
  defaultTrim : Byte
  /-- `DEFAULT_LC` -/
  defaultLc : LineCoding
  deriving DecidableEq, Repr

/-- The capacities R8 admits: the powers of two from 2 to 256. -/
def capacities : List Nat := [2, 4, 8, 16, 32, 64, 128, 256]

/-- Every constraint of R8's table. -/
abbrev Params.Valid (p : Params) : Prop :=
  p.capIn ∈ capacities ∧ p.capOut ∈ capacities ∧
  (1 ≤ p.pktIn ∧ p.pktIn ≤ 255) ∧
  (1 ≤ p.pktOut ∧ p.pktOut + 2 ≤ p.capOut) ∧
  p.pktOut + p.outHeadroom + 1 < p.capOut ∧
  p.inStopFree ≤ p.inResumeFree + 1 ∧
  p.inResumeFree + 1 < p.capIn ∧
  0 < p.timerClock ∧
  (1 ≤ p.ocrBits ∧ p.ocrBits ≤ 16) ∧
  (1 ≤ p.trimBits ∧ p.trimBits ≤ 8) ∧
  (p.split = true → 2 ≤ p.trimBits) ∧
  p.splitProbe.toNat < 2 ^ p.trimBits ∧
  p.defaultTrim.toNat < 2 ^ p.trimBits

/-- `Cfg` (R8): the parameters together with the proof that they meet R8's constraints. -/
structure Cfg extends Params where
  valid : toParams.Valid
  deriving DecidableEq, Repr

/-- `K = TRIM_BITS - SPLIT`, the number of search bits (R8). -/
def Cfg.k (c : Cfg) : Nat := c.trimBits - c.split.toNat

/-- `OCR_MAX = 2^OCR_BITS - 1` (R8). -/
def Cfg.ocrMax (c : Cfg) : Nat := 2 ^ c.ocrBits - 1

/-- `80 25 00 00 00 00 08`: 9600 baud, 8 data bits, no parity, 1 stop bit (R101; the presets' `DEFAULT_LC`). -/
def lc9600 : LineCoding := ⟨0x80, 0x25, 0x00, 0x00, 0x00, 0x00, 0x08⟩

/-- The parameters of preset `CFG-SW` (R9). -/
def Params.sw : Params where
  backend := .software
  capIn := 8
  capOut := 128
  pktIn := 8
  pktOut := 2
  outHeadroom := 2
  inStopFree := 2
  inResumeFree := 3
  invert := false
  swTxCtsGate := false
  timerClock := 1000000
  ocrBits := 16
  trimBits := 8
  split := false
  splitProbe := 127
  target := 1000
  defaultTrim := 0x80
  defaultLc := lc9600

/-- The parameters of preset `CFG-HW` (R9). -/
def Params.hw : Params :=
  { Params.sw with
    backend := .hardware, capIn := 128, capOut := 256, pktIn := 8, pktOut := 8,
    outHeadroom := 8, inStopFree := 8, inResumeFree := 16 }

/-- The parameters of preset `CFG-T` (R9), tiny buffers for programs. -/
def Params.tiny : Params :=
  { Params.sw with capIn := 8, capOut := 8, pktIn := 4, pktOut := 2 }

/-- Preset `CFG-SW` (R9). -/
def Cfg.sw : Cfg := { Params.sw with valid := by decide }

/-- Preset `CFG-HW` (R9). -/
def Cfg.hw : Cfg := { Params.hw with valid := by decide }

/-- Preset `CFG-T` (R9). -/
def Cfg.tiny : Cfg := { Params.tiny with valid := by decide }

end Sys2Proof
end

