-- ==== Sys2Proof/Machine/Arith.lean ====
section
/-! DEFINITION. The pure arithmetic of the rules: `absdiff`, `round_div`, `rev8` (00_scope.md R11), the baud
quantisation and the first-sample offset (42_soft_uart.md R190, R191), the transmit frame (R194), the rate
field (20_memory.md R66) and the writes of trim-wide elements. All on unsigned values (R167, R213). -/

namespace Sys2Proof.Machine

/-- `absdiff(a, b)`: `a - b` if `a >= b`, else `b - a` (R11). -/
def absdiff (a b : Half) : Half := if b ≤ a then a - b else b - a

/-- `round_div(a, b) = floor((2a + b) / (2b))`, to nearest, halves up, `b > 0` (R11, R190). -/
def roundDiv (a b : Nat) : Nat := (2 * a + b) / (2 * b)

/-- `rev8(b)`: the byte whose bit `i` is `b[7-i]` (R11). -/
def rev8 (b : Byte) : Byte := b.reverse

/-- `rate(l) = l[0] + 256 * l[1] + 65536 * l[2] + 16777216 * l[3]` (R66). -/
def rate (l : LineCoding) : Nat :=
  l.d0.toNat + 256 * l.d1.toNat + 65536 * l.d2.toNat + 16777216 * l.d3.toNat

/-- `quantize(baud)` as a natural (R190): `round_div(TIMER_CLOCK, baud) - 1` clamped to `0 .. OCR_MAX`, and
`OCR_MAX` for `baud = 0`. The subtraction never goes below 0: subtraction of naturals is R190's clamp at 0. -/
def quantizeNat (c : Cfg) (baud : Nat) : Nat :=
  if baud = 0 then c.ocrMax else min (roundDiv c.timerClock baud - 1) c.ocrMax

/-- `quantize(baud)` (R190), an `OCR_BITS`-bit value. -/
def quantize (c : Cfg) (baud : Nat) : BitVec 16 := BitVec.ofNat 16 (quantizeNat c baud)

/-- The bit period `T = ocr + 1` in ticks, `1 .. 65536`, as the 17-bit counters hold it (R191, R33). -/
def bitPeriod (ocr : BitVec 16) : BitVec 17 := ocr.setWidth 17 + 1

/-- `first = T + floor(T / 4)`: 1.25 bit periods, rounded down (R191; 90_conflicts.md C4). -/
def firstOffset (ocr : BitVec 16) : BitVec 17 := bitPeriod ocr + bitPeriod ocr >>> 2

/-- `frame(b) = rev8(b) * 2 + 1` (R194): start bit 0 in bit 9, `rev8(b)` in bits 8 to 1, stop bit 1 in bit 0. -/
def frame (b : Byte) : BitVec 10 := (rev8 b).setWidth 10 <<< 1 ||| 1

/-- A value written to an element of `TRIM_BITS` bits (R42, R44): reduced modulo `2^TRIM_BITS`. In a pass the
value is always in range (R130, R138 item 3), so nothing is lost (notes/assumptions/10.md). -/
def trimOf (c : Cfg) (z : Int) : Byte := BitVec.ofNat 8 (z % ((2 ^ c.trimBits : Nat) : Int)).toNat

/-- `load_trim` (70_reset_and_hazards.md R291): `DEFAULT_TRIM` if `nv = 0xFF`, else `nv[TRIM_BITS-1:0]`. -/
def bootTrim (c : Cfg) (nv : Byte) : Byte :=
  if nv = 0xFF then c.defaultTrim else trimOf c (nv.toNat : Int)

end Sys2Proof.Machine
end

