-- ==== Sys2Proof/Machine/State.lean ====
section
/-! DEFINITION. The state of the block (10_state.md R20 to R45) as plain data, the reasons a step can stop,
and the state after reset (R51, R294). Elements whose width is a parameter are held at its largest width
(notes/assumptions/10.md). The fields `cfg`, `port`, `answer` and `trace` are the model's own: the build-time
configuration (notes/assumptions/1.md), the packets waiting on the operation port (5.md), and the outputs of
R13 and R97 (9.md). -/

namespace Sys2Proof.Machine

/-- The contents of one address space: address and byte, addresses strictly rising, no byte equal to what an
unlisted address reads as (Machine/Memory.lean). -/
abbrev Memory := List Host.Cell

/-- A ring buffer (R21 to R25): the bytes of its address space, and its two masked indices. -/
structure Ring where
  /-- `mem_B`; for IN also `ext_in`, from address `CAP_IN` on (R22, R60). -/
  mem : Memory
  /-- `rd_B` -/
  rd : BitVec 8
  /-- `wr_B` -/
  wr : BitVec 8
  deriving DecidableEq, Repr

/-- The transmitter (R35 to R39). -/
structure Tx where
  /-- `tx_idle` (R35) -/
  idle : Bool
  /-- `tx_frame` (R36); bit 9 is the next bit to drive. -/
  frame : BitVec 10
  /-- `tx_left` (R37): TXBIT events still to come. -/
  left : BitVec 4
  /-- `tx_cnt` (R38): ticks to the next TXBIT. -/
  cnt : BitVec 17
  /-- `txd` (R39): the transmit pin's level. -/
  txd : Bool
  deriving DecidableEq, Repr

/-- The receiver (R40, R41). -/
structure Rx where
  /-- `rx_left` (R40): samples still to take; 0 = armed. -/
  left : BitVec 4
  /-- `rx_cnt` (R41): ticks to the next RXSAMPLE. -/
  cnt : BitVec 17
  /-- `rx_shift` (R41) -/
  shift : Byte
  /-- `rx_prev` (R41): the logical level at the previous TICK. -/
  prev : Bool
  deriving DecidableEq, Repr

/-- The values of `cal_phase` (R43); 5 to 7 are never produced (U28, notes/assumptions/15.md). -/
inductive CalPhase where
  | idle
  | base
  | splitp
  | search
  | neigh
  deriving DecidableEq, Repr

/-- The calibration sequencer: its phase (R43) and the transient CalibrationState (R44). -/
structure Cal where
  /-- `cal_phase` -/
  phase : CalPhase
  /-- `cal_saved` -/
  saved : Byte
  /-- `cal_base_dev` -/
  baseDev : Half
  /-- `cal_base` -/
  base : Byte
  /-- `cal_trial` -/
  trial : Byte
  /-- `cal_step` -/
  step : Byte
  /-- `cal_coarse` -/
  coarse : Byte
  /-- `cal_best` -/
  best : Byte
  /-- `cal_best_dev` -/
  bestDev : Half
  /-- `cal_idx` -/
  idx : BitVec 3
  deriving DecidableEq, Repr

/-- The statuses of an answer (30_encoding.md R98). -/
inductive Status where
  | ok
  | nak
  | stall
  deriving DecidableEq, Repr

/-- An answer packet (R97): its status and its payload bytes. -/
structure Answer where
  status : Status
  bytes : List Byte
  deriving DecidableEq, Repr

/-- The trace events of R13. -/
inductive Event where
  /-- `nv_write(v)` -/
  | nvWrite (v : Byte)
  /-- `trim_write(v)` -/
  | trimWrite (v : Byte)
  /-- `meas_request` -/
  | measRequest
  /-- `periph_tx(b)` -/
  | periphTx (b : Byte)
  /-- `periph_cfg(l0..l6)` -/
  | periphCfg (l : LineCoding)
  deriving DecidableEq, Repr

/-- The state of the block (R20). -/
structure State where
  /-- `Cfg` (R8), never changed (notes/assumptions/1.md). -/
  cfg : Cfg
  /-- The packets waiting on the operation port, oldest first (notes/assumptions/5.md). -/
  port : List (List Byte)
  /-- The answer packet of the latest operation (R97; notes/assumptions/9.md). -/
  answer : Option Answer
  /-- The output trace, oldest event first (R13; notes/assumptions/9.md). -/
  trace : List Event
  /-- The inbound ring: `mem_in`, `ext_in`, `rd_in`, `wr_in` (R21 to R23). -/
  rbIn : Ring
  /-- The outbound ring: `mem_out`, `rd_out`, `wr_out` (R24, R25). -/
  rbOut : Ring
  /-- `usb_accept` (R27) -/
  usbAccept : Bool
  /-- `rts` (R28) -/
  rts : Bool
  /-- `cts` (R29) -/
  cts : Bool
  /-- `dtr` (R30) -/
  dtr : Bool
  /-- `zlp_pending` (R31) -/
  zlpPending : Bool
  /-- `lc[0..6]` (R32) -/
  lc : LineCoding
  /-- `ocr` (R33) -/
  ocr : BitVec 16
  /-- `first` (R34) -/
  first : BitVec 17
  /-- The transmitter (R35 to R39). -/
  tx : Tx
  /-- The receiver (R40, R41). -/
  rx : Rx
  /-- `pin_rxd` (R41): the latched pin level of the receive line. -/
  pinRxd : Bool
  /-- `osctrim` (R42) -/
  osctrim : Byte
  /-- `nv` (R42), the non-volatile byte, space NV of R60. -/
  nv : Byte
  /-- `cal_phase` and the transient CalibrationState (R43, R44). -/
  cal : Cal
  /-- `ovf_out` (R45) -/
  ovfOut : Bool
  /-- `ovf_in` (R45) -/
  ovfIn : Bool
  deriving DecidableEq, Repr

/-- The reasons the block itself stops: none. Every packet has an answer in every state (60_exceptions.md
R281, R260), no access outside an address space can be formed (20_memory.md R61), and the two fault bits of
R263 are state that gates nothing (notes/assumptions/12.md). -/
inductive Fault : Type
  deriving DecidableEq, Repr

/-- Why a step has no meaning. -/
inductive Refusal where
  /-- An operation without a meaning in this model, by its mnemonic; raised by no step, since every
  operation has its meaning. Safe. -/
  | notModelled (mnemonic : String)
  /-- The byte string on the port is not a whole packet; raised by `step`: "the operation port delivers whole
  packets only and a model refuses such a string at the boundary" (R94, U26). Safe (notes/assumptions/7.md). -/
  | notAPacket
  deriving DecidableEq, Repr

/-- The trace of a RESET (R290): `trim_write`, then under the hardware backend `periph_cfg`. -/
def resetTrace (c : Cfg) (nv : Byte) : List Event :=
  .trimWrite (bootTrim c nv) ::
    (match c.backend with
     | .software => []
     | .hardware => [.periphCfg c.defaultLc])

/-- The state after RESET, "parameterised by `Cfg` and by the launch value of `nv`" (R294): the table of R51,
with nothing listed in the ring stores (notes/assumptions/4.md) and nothing waiting on the port. -/
def State.resetOf (c : Cfg) (nv : Byte) : State where
  cfg := c
  port := []
  answer := some ⟨.ok, []⟩
  trace := resetTrace c nv
  rbIn := ⟨[], 0, 0⟩
  rbOut := ⟨[], 0, 0⟩
  usbAccept := true
  rts := true
  cts := true
  dtr := false
  zlpPending := false
  lc := c.defaultLc
  ocr := quantize c (rate c.defaultLc)
  first := firstOffset (quantize c (rate c.defaultLc))
  tx := ⟨true, 0x3FF, 0, 0, true ^^ c.invert⟩
  rx := ⟨0, 0, 0, true⟩
  pinRxd := true ^^ c.invert
  osctrim := bootTrim c nv
  nv := nv
  cal := ⟨.idle, 0, 0, 0, 0, 0, 0, 0, 0, 0⟩
  ovfOut := false
  ovfIn := false

/-- The machine right after reset: preset CFG-SW (R9; notes/assumptions/2.md) on a fresh device, whose
non-volatile byte reads 0xFF (10_state.md R42, spec G1; notes/assumptions/3.md). -/
def State.reset : State := State.resetOf Cfg.sw 0xFF

end Sys2Proof.Machine
end

