-- ==== Sys2Proof/Machine/Memory.lean ====
section
/-! DEFINITION. Reading and writing one byte of an address space (20_memory.md R60, R65: every access is
one byte wide), and the canonical form of a memory. -/

namespace Sys2Proof.Machine

/-- What an address that nothing has written reads as. The spec leaves the cells' contents open (10_state.md
R51: "any byte values"; U20) and no rule reads such a cell (R52 item 5): DESIGN CHOICE, unsafe
(notes/assumptions/4.md). -/
def Memory.blank : Byte := 0x00

/-- `MemRead(space, a, 1)` (R11). -/
def Memory.read : Memory → Nat → Byte
  | [], _ => Memory.blank
  | (k, v) :: rest, a => if k = a then v else Memory.read rest a

/-- `MemWrite(space, a, 1, v)` (R11), keeping the canonical form. -/
def Memory.write : Memory → Nat → Byte → Memory
  | [], a, v => if v = Memory.blank then [] else [(a, v)]
  | (k, x) :: rest, a, v =>
    if k < a then (k, x) :: Memory.write rest a v
    else if k = a then (if v = Memory.blank then rest else (a, v) :: rest)
    else (if v = Memory.blank then (k, x) :: rest else (a, v) :: (k, x) :: rest)

/-- The canonical form: addresses strictly rising, no byte equal to what an unlisted address reads as. -/
abbrev Memory.wf (m : Memory) : Prop :=
  m.Pairwise (fun x y => x.1 < y.1) ∧ ∀ c ∈ m, c.2 ≠ Memory.blank

/-- Every listed address is below `n`: the space has `n` addresses (R60). -/
abbrev Memory.within (m : Memory) (n : Nat) : Prop := ∀ c ∈ m, c.1 < n

end Sys2Proof.Machine
end

