-- ==== Sys2Proof/Machine/Flags.lean ====
section
/-! DEFINITION. The one-bit elements' computations: the hysteresis of the two gates (41_ring_buffers.md
R155), occupancy (R151), and the packed registers STATUS, FAULT and PINSTAT (10_state.md R50). -/

namespace Sys2Proof.Machine

/-- `hyst(g, f, stop, resume)` (R155). -/
def hyst (g : Bool) (f stop resume : Nat) : Bool :=
  if f < stop then false else if f > resume then true else g

/-- The masked index `idx & MASK` (R61, R167) of a ring of capacity `cap`, a power of two. -/
def slot (cap : Nat) (idx : BitVec 8) : Nat := idx.toNat % cap

/-- `(idx + n) & MASK` (R167), as a stored index. -/
def advance (cap : Nat) (idx : BitVec 8) (n : Nat) : BitVec 8 :=
  BitVec.ofNat 8 ((idx.toNat + n) % cap)

/-- `used(B) = (wr_B - rd_B) mod CAP_B` (R151). -/
def Ring.used (r : Ring) (cap : Nat) : Nat := (r.wr - r.rd).toNat % cap

/-- `free(B) = CAP_B - 1 - used(B)` (R151). -/
def Ring.free (r : Ring) (cap : Nat) : Nat := cap - 1 - r.used cap

/-- `used(IN)` -/
def State.usedIn (s : State) : Nat := s.rbIn.used s.cfg.capIn

/-- `free(IN)` -/
def State.freeIn (s : State) : Nat := s.rbIn.free s.cfg.capIn

/-- `used(OUT)` -/
def State.usedOut (s : State) : Nat := s.rbOut.used s.cfg.capOut

/-- `free(OUT)` -/
def State.freeOut (s : State) : Nat := s.rbOut.free s.cfg.capOut

/-- The logical level of the receive pin: `pin_rxd xor INVERT` (R200, R197). -/
def State.rxLevel (s : State) : Bool := s.pinRxd ^^ s.cfg.invert

/-- `fault_any = ovf_out or ovf_in` (R50). -/
def State.faultAny (s : State) : Bool := s.ovfOut || s.ovfIn

/-- `cal_busy = (cal_phase != IDLE)` (R50). -/
def State.calBusy (s : State) : Bool := s.cal.phase != .idle

/-- The byte whose bits, lowest first, are the given ones; bits not given read 0 (R50). -/
def packBits : List Bool → Byte
  | [] => 0
  | b :: rest => (packBits rest <<< 1) ||| (BitVec.ofBool b).setWidth 8

/-- STATUS, register 0x00 (R50). -/
def State.status (s : State) : Byte :=
  packBits [s.tx.idle, s.usbAccept, s.rts, s.cts, s.dtr, s.zlpPending, s.calBusy, s.faultAny]

/-- FAULT, register 0x01 (R50). -/
def State.faultBits (s : State) : Byte := packBits [s.ovfOut, s.ovfIn]

/-- PINSTAT, register 0x1C (R50). -/
def State.pinstat (s : State) : Byte := packBits [s.pinRxd, s.cts, s.tx.txd, s.rts, s.dtr]

end Sys2Proof.Machine
end

