-- ==== Sys2Proof/Machine/Operands.lean ====
section
/-! DEFINITION. The bits of the operands, as the rules name them (30_encoding.md R99, R100, R104): PINS'
`p`, POLL_HW's `flags`, SET_CONTROL_LINE_STATE's `v`. Bits no rule names are ignored (93 U27). -/

namespace Sys2Proof.Machine

/-- PINS `p[0]`: the pin level of the receive line (R99, R199). -/
def pinsRxd (p : Byte) : Bool := p.getLsbD 0

/-- PINS `p[1]`: the clear-to-send input, 1 = asserted (R99, R199). -/
def pinsCts (p : Byte) : Bool := p.getLsbD 1

/-- POLL_HW `flags[0] = rx_valid`: a newly received byte waits (R100). -/
def flagRxValid (flags : Byte) : Bool := flags.getLsbD 0

/-- POLL_HW `flags[1] = rx_err`: a framing, parity or overrun error goes with it (R100). -/
def flagRxErr (flags : Byte) : Bool := flags.getLsbD 1

/-- POLL_HW `flags[2] = tx_ready`: the peripheral takes a transmit byte (R100). -/
def flagTxReady (flags : Byte) : Bool := flags.getLsbD 2

/-- SET_CONTROL_LINE_STATE `v[0]`: terminal-ready (R104). -/
def lineStateReady (v : Half) : Bool := v.getLsbD 0

end Sys2Proof.Machine
end

