-- ==== Sys2Proof/Machine/Ops.lean ====
section
/-! DEFINITION. The named operations over the state that the rules share: the writes of state elements, the
answer packet (30_encoding.md R97) and the trace (00_scope.md R13), the ring primitives (41_ring_buffers.md
R152, R153, R165), `gate_eval` (R156), `raise Fault` (60_exceptions.md R263), and `configure` (42_soft_uart.md
R191, 44_hw_backend.md R255). The block takes no exception in the processor's sense and has no return from one
(R274, R275): `raise Fault(bit)` is the one shared operation in that place. -/

namespace Sys2Proof.Machine

/-! ### Answer packets -/

/-- The status byte (R98). -/
def Status.code : Status → Byte
  | .ok => 0x00
  | .nak => 0x01
  | .stall => 0x02

/-- The answer packet on the port (R97): status, `alen`, payload. -/
def Answer.packet (a : Answer) : List Byte :=
  a.status.code :: BitVec.ofNat 8 a.bytes.length :: a.bytes

/-! ### Writes of state elements -/

/-- `answer(status, bytes)`: the operation's answer packet (R97). -/
def State.reply (s : State) (st : Status) (bytes : List Byte) : State :=
  { s with answer := some ⟨st, bytes⟩ }

/-- `emit ev`: append to the output trace (R11, R13). -/
def State.emit (s : State) (e : Event) : State := { s with trace := s.trace ++ [e] }

/-- Replace the inbound ring. -/
def State.setIn (s : State) (r : Ring) : State := { s with rbIn := r }

/-- Replace the outbound ring. -/
def State.setOut (s : State) (r : Ring) : State := { s with rbOut := r }

/-- Write the two gates `usb_accept` and `rts` (R27, R28). -/
def State.setGates (s : State) (accept rts : Bool) : State :=
  { s with usbAccept := accept, rts := rts }

/-- Write `zlp_pending` (R31). -/
def State.setZlp (s : State) (z : Bool) : State := { s with zlpPending := z }

/-- Write the two input latches `pin_rxd` and `cts` (R199). -/
def State.setPins (s : State) (rxd cts : Bool) : State := { s with pinRxd := rxd, cts := cts }

/-- Write `dtr` (R30). -/
def State.setDtr (s : State) (d : Bool) : State := { s with dtr := d }

/-- Write `lc[0..6]` (R32). -/
def State.setLc (s : State) (l : LineCoding) : State := { s with lc := l }

/-- Write `ocr` and `first` (R33, R34). -/
def State.setTiming (s : State) (ocr : BitVec 16) (first : BitVec 17) : State :=
  { s with ocr := ocr, first := first }

/-- Write the transmitter's elements (R35 to R39). -/
def State.setTx (s : State) (t : Tx) : State := { s with tx := t }

/-- Write the receiver's elements (R40, R41). -/
def State.setRx (s : State) (r : Rx) : State := { s with rx := r }

/-- Write the calibration sequencer's elements (R43, R44). -/
def State.setCal (s : State) (c : Cal) : State := { s with cal := c }

/-- A write of `osctrim`: "Every write emits `trim_write(v)`" (R42). -/
def State.applyTrim (s : State) (v : Byte) : State :=
  { s with osctrim := v, trace := s.trace ++ [.trimWrite v] }

/-- A write of the non-volatile byte, traced as `nv_write(v)` (R67, R68). -/
def State.storeNv (s : State) (v : Byte) : State :=
  { s with nv := v, trace := s.trace ++ [.nvWrite v] }

/-! ### Faults -/

/-- The two sticky fault bits (R263). -/
inductive FaultBit where
  | ovfOut
  | ovfIn
  deriving DecidableEq, Repr

/-- `raise Fault(bit)`: set the sticky bit and go on with the next line (R11, R263). -/
def State.raiseFault (s : State) : FaultBit → State
  | .ovfOut => { s with ovfOut := true }
  | .ovfIn => { s with ovfIn := true }

/-! ### The ring primitives -/

/-- `rb_enqueue(B, b)` (R152): `none` is `rejected`. The data cell is written, then the index. -/
def Ring.enqueue (r : Ring) (cap : Nat) (b : Byte) : Option Ring :=
  if r.free cap = 0 then none
  else some { r with mem := Memory.write r.mem (slot cap r.wr) b, wr := advance cap r.wr 1 }

/-- `rb_dequeue(B)` (R153): `none` is `empty`. The cell keeps its content. -/
def Ring.dequeue (r : Ring) (cap : Nat) : Option (Byte × Ring) :=
  if r.used cap = 0 then none
  else some (Memory.read r.mem (slot cap r.rd), { r with rd := advance cap r.rd 1 })

/-- `make_contiguous(n)` (R165): when the drain wraps, copy its wrapped tail to the extension region. -/
def Ring.makeContiguous (r : Ring) (cap n : Nat) : Ring :=
  { r with
    mem := (List.range (slot cap r.rd + n - cap)).foldl
      (fun m j => Memory.write m (cap + j) (Memory.read m j)) r.mem }

/-- The `n` bytes at linear addresses `rd .. rd + n - 1`, unmasked (R164, R168). -/
def Ring.linear (r : Ring) (cap n : Nat) : List Byte :=
  (List.range n).map (fun i => Memory.read r.mem (slot cap r.rd + i))

/-- `rd <- (rd + n) & MASK` (R164). -/
def Ring.skip (r : Ring) (cap n : Nat) : Ring := { r with rd := advance cap r.rd n }

/-! ### Gates, configuration -/

/-- `gate_eval` (R156): both gates from the two free counts, with hysteresis. -/
def State.gateEval (s : State) : State :=
  s.setGates
    (hyst s.usbAccept s.freeOut s.cfg.pktOut (s.cfg.pktOut + s.cfg.outHeadroom))
    (hyst s.rts s.freeIn s.cfg.inStopFree s.cfg.inResumeFree)

/-- The timing half of `configure` (R191): `ocr` and `first` from `lc`. -/
def State.retime (s : State) : State :=
  s.setTiming (quantize s.cfg (rate s.lc)) (firstOffset (quantize s.cfg (rate s.lc)))

/-- `configure` (R191); the hardware backend also hands the seven raw bytes to its peripheral (R255). -/
def State.configure (s : State) : State :=
  match s.cfg.backend with
  | .software => s.retime
  | .hardware => s.retime.emit (.periphCfg s.lc)

/-! ### Answers -/

/-- What a meaning answers with. -/
abbrev Result := Host.Outcome State Fault Refusal

/-- The operation ends with `answer(OK, bytes)`. -/
def State.okWith (s : State) (bytes : List Byte) : Result := .next (s.reply .ok bytes)

/-- The operation ends with `answer(OK, [])`. -/
def State.ok (s : State) : Result := s.okWith []

/-- Refused, not enabled now: NAK, no state change (R98, R260). -/
def State.nak (s : State) : Result := .next (s.reply .nak [])

/-- Refused, malformed, reserved or unavailable: STALL, no state change (R98, R260). -/
def State.stall (s : State) : Result := .next (s.reply .stall [])

end Sys2Proof.Machine
end

