-- ==== Sys2Proof/Machine/Bridge.lean ====
section
/-! DEFINITION. The bridge and line-coding controller (43_bridge_controller.md): SET_LINE_CODING,
GET_LINE_CODING, SET_CONTROL_LINE_STATE, RDREG and the register map of 10_state.md R50. -/

namespace Sys2Proof.Machine

/-- SET_LINE_CODING (R231): store the raw bytes unvalidated, reconfigure the backend. -/
def execSetLineCoding (l : LineCoding) (s : State) : Result := (s.setLc l).configure.ok

/-- GET_LINE_CODING (R234): the stored bytes, verbatim. -/
def execGetLineCoding (s : State) : Result := s.okWith s.lc.bytes

/-- SET_CONTROL_LINE_STATE (R236): mirror bit 0 onto `dtr`. -/
def execSetControlLineState (v : Half) (s : State) : Result := (s.setDtr (lineStateReady v)).ok

/-- `zext_8(cal_phase)` (R43, R50). -/
def CalPhase.code : CalPhase → Byte
  | .idle => 0
  | .base => 1
  | .splitp => 2
  | .search => 3
  | .neigh => 4

/-- `x[n]` (R50): the registers 0x00 to 0x1C in order. -/
def State.registers (s : State) : List Byte :=
  [s.status, s.faultBits,
   BitVec.ofNat 8 s.usedIn, BitVec.ofNat 8 s.freeIn,
   BitVec.ofNat 8 s.usedOut, BitVec.ofNat 8 s.freeOut,
   s.rbIn.rd, s.rbIn.wr, s.rbOut.rd, s.rbOut.wr,
   s.osctrim, s.nv, s.cal.phase.code,
   s.ocr.extractLsb' 0 8, s.ocr.extractLsb' 8 8,
   s.first.extractLsb' 0 8, s.first.extractLsb' 8 8, (s.first.extractLsb' 16 1).setWidth 8] ++
  s.lc.bytes ++
  [s.tx.left.setWidth 8, s.rx.left.setWidth 8, s.rx.shift, s.pinstat]

/-- RDREG (R238): one register, or STALL for a reserved number (above 0x1C). -/
def execRdreg (n : Byte) (s : State) : Result :=
  match s.registers[n.toNat]? with
  | some x => s.okWith [x]
  | none => s.stall

end Sys2Proof.Machine
end

