-- ==== Sys2Proof/Machine/Calibration.lean ====
section
/-! DEFINITION. The oscillator calibration loop (40_calibration.md): BUS_RESET, MEAS and the sequencer's
steps. -/

namespace Sys2Proof.Machine

/-- `dev(x) = absdiff(x, TARGET)` (R126). -/
def State.dev (s : State) (x : Half) : Half := absdiff x s.cfg.target

/-- Apply a trial trim value and ask for its measurement (R120). -/
def State.probe (s : State) (v : Byte) : State := (s.applyTrim v).emit .measRequest

/-- `begin_search()` (R129): the middle of the range, with a step of half the range. -/
def State.beginSearch (s : State) : State :=
  let trial := trimOf s.cfg ((s.cal.base.toNat : Int) + 2 ^ (s.cfg.k - 1))
  let step := trimOf s.cfg (2 ^ (s.cfg.k - 1))
  (s.setCal { s.cal with trial := trial, step := step, phase := .search }).probe trial

/-- `cand(i) = cal_coarse - 2 + i`, computed as an integer (R132). -/
def Cal.cand (c : Cal) (i : Nat) : Int := (c.coarse.toNat : Int) - 2 + i

/-- A candidate is admissible when it lies in the searched range (R132). -/
def Cal.admissible (c : Cal) (k i : Nat) : Bool :=
  decide ((c.base.toNat : Int) ≤ c.cand i ∧ c.cand i ≤ (c.base.toNat : Int) + 2 ^ k - 1)

/-- The least admissible index among `start .. 4` (R132, R133). -/
def Cal.nextCand (c : Cal) (k start : Nat) : Option Nat :=
  (List.range 5).find? (fun i => decide (start ≤ i) && c.admissible k i)

/-- `begin_neigh()` (R132). Candidate 2, the coarse optimum itself, is always admissible in a pass; in a state
no pass reaches, where no candidate is, it is taken (notes/assumptions/11.md). -/
def State.beginNeigh (s : State) : State :=
  let i := (s.cal.nextCand s.cfg.k 0).getD 2
  (s.setCal { s.cal with
      best := s.cal.coarse, bestDev := 0xFFFF, idx := BitVec.ofNat 3 i, phase := .neigh }).probe
    (trimOf s.cfg (s.cal.cand i))

/-- `finish_search(d)` (R131): a coarse result worse than the baseline abandons the pass. -/
def State.finishSearch (s : State) (d : Half) : State :=
  if s.cal.baseDev < d then
    (s.applyTrim s.cal.saved).setCal { s.cal with phase := .idle }
  else s.beginNeigh

/-- `finish_pass()` (R134): apply the winner and store it if it differs from the stored byte. -/
def State.finishPass (s : State) : State :=
  let s1 := s.applyTrim s.cal.best
  let s2 := if s.cal.best = s.nv then s1 else s1.storeNv s.cal.best
  s2.setCal { s.cal with phase := .idle }

/-- `step_base(x)` (R127). -/
def State.stepBase (s : State) (x : Half) : State :=
  let c := { s.cal with baseDev := s.dev x }
  if s.cfg.split then (s.setCal { c with phase := .splitp }).probe s.cfg.splitProbe
  else (s.setCal { c with base := 0 }).beginSearch

/-- `step_split(x)` (R128): below target even at the probe, search the upper half. -/
def State.stepSplit (s : State) (x : Half) : State :=
  (s.setCal { s.cal with
    base := if x < s.cfg.target then trimOf s.cfg (2 ^ s.cfg.k) else 0 }).beginSearch

/-- The next search trial (R130): too slow raises the trim, too fast or exact lowers it. -/
def State.nextTrial (s : State) (x : Half) (half : Byte) : Byte :=
  if x < s.cfg.target then trimOf s.cfg ((s.cal.trial.toNat : Int) + half.toNat)
  else trimOf s.cfg ((s.cal.trial.toNat : Int) - half.toNat)

/-- `step_search(x)` (R130). -/
def State.stepSearch (s : State) (x : Half) : State :=
  let half := s.cal.step >>> 1
  if half = 0 then (s.setCal { s.cal with coarse := s.cal.trial }).finishSearch (s.dev x)
  else
    let trial := s.nextTrial x half
    (s.setCal { s.cal with trial := trial, step := half }).probe trial

/-- The best candidate after a neighbourhood measurement (R133): strictly smaller deviations only. -/
def State.scoreCand (s : State) (x : Half) : Cal :=
  if s.dev x < s.cal.bestDev then
    { s.cal with best := trimOf s.cfg (s.cal.cand s.cal.idx.toNat), bestDev := s.dev x }
  else s.cal

/-- `step_neigh(x)` (R133). -/
def State.stepNeigh (s : State) (x : Half) : State :=
  let c := s.scoreCand x
  match s.cal.nextCand s.cfg.k (s.cal.idx.toNat + 1) with
  | some j => (s.setCal { c with idx := BitVec.ofNat 3 j }).probe (trimOf s.cfg (s.cal.cand j))
  | none => (s.setCal c).finishPass

/-- BUS_RESET (R122, R123): the line coding to its default, and a calibration pass started; one that is
running is abandoned, its trim restored. -/
def execBusReset (s : State) : Result :=
  let s1 := (s.setLc s.cfg.defaultLc).configure
  let s2 :=
    if s.cal.phase = .idle then s1.setCal { s.cal with saved := s.osctrim, phase := .base }
    else (s1.applyTrim s.cal.saved).setCal { s.cal with phase := .base }
  (s2.emit .measRequest).ok

/-- MEAS (R125): one step of the sequencer; NAK when no measurement is outstanding. -/
def execMeas (x : Half) (s : State) : Result :=
  match s.cal.phase with
  | .idle => s.nak
  | .base => (s.stepBase x).ok
  | .splitp => (s.stepSplit x).ok
  | .search => (s.stepSearch x).ok
  | .neigh => (s.stepNeigh x).ok

end Sys2Proof.Machine
end

