-- ==== Sys2Proof/Machine/HwBackend.lean ====
section
/-! DEFINITION. The hardware-variant backend at the ring-buffer boundary (44_hw_backend.md): POLL_HW. The
on-chip peripheral is abstract: its flags are operands, its inputs are trace events (R250). -/

namespace Sys2Proof.Machine

/-- `hw_receive(flags, rxdata)` (R252): a byte with an error is discarded silently; a good byte that finds the
buffer full is lost and sets `ovf_in`. -/
def State.hwReceive (s : State) (flags rxdata : Byte) : State :=
  if flagRxValid flags && !flagRxErr flags then
    match s.rbIn.enqueue s.cfg.capIn rxdata with
    | some r => s.setIn r
    | none => s.raiseFault .ovfIn
  else s

/-- `hw_transmit(flags)` (R253): at most one byte, when the peripheral is ready and clear-to-send is
asserted; the answer's bytes and the state. -/
def State.hwTransmit (s : State) (flags : Byte) : List Byte × State :=
  if flagTxReady flags && s.cts then
    match s.rbOut.dequeue s.cfg.capOut with
    | some (b, r) => ([b], (s.setOut r).emit (.periphTx b))
    | none => ([], s)
  else ([], s)

/-- POLL_HW (R251): hardware backend only, otherwise STALL (R96). -/
def execPollHw (flags rxdata : Byte) (s : State) : Result :=
  match s.cfg.backend with
  | .software => s.stall
  | .hardware =>
    let sent := (s.hwReceive flags rxdata).hwTransmit flags
    sent.2.gateEval.okWith sent.1

end Sys2Proof.Machine
end

