-- ==== Sys2Proof/Machine/RingBuffers.lean ====
section
/-! DEFINITION. The ring-buffer arbiters (41_ring_buffers.md): USB_OUT and USB_IN_READY. -/

namespace Sys2Proof.Machine

/-- One byte of a USB_OUT packet (R160): enqueued, or lost with `ovf_out` set. -/
def State.pushOut (s : State) (b : Byte) : State :=
  match s.rbOut.enqueue s.cfg.capOut b with
  | some r => s.setOut r
  | none => s.raiseFault .ovfOut

/-- USB_OUT (R160): STALL when longer than `PKT_OUT` (R96), NAK when the gate is closed. -/
def execUsbOut (data : List Byte) (s : State) : Result :=
  if s.cfg.pktOut < data.length then s.stall
  else if s.usbAccept then (data.foldl State.pushOut s).gateEval.ok
  else s.nak

/-- The length of the next report, `min(used(IN), PKT_IN)` (R163). -/
def State.reportLen (s : State) : Nat := min s.usedIn s.cfg.pktIn

/-- A data report (R164): the drain made contiguous (R165), the read index advanced, `zlp_pending` set by a
full report and cleared by a short one (R166), the gates evaluated. -/
def State.drainIn (s : State) : State :=
  let r := s.rbIn.makeContiguous s.cfg.capIn s.reportLen
  ((s.setIn (r.skip s.cfg.capIn s.reportLen)).setZlp (s.reportLen == s.cfg.pktIn)).gateEval

/-- The report's bytes (R164), read at linear addresses after the copy of R165. -/
def State.reportBytes (s : State) : List Byte :=
  (s.rbIn.makeContiguous s.cfg.capIn s.reportLen).linear s.cfg.capIn s.reportLen

/-- USB_IN_READY (R164): a data report, the one empty report, or NAK. -/
def execUsbInReady (s : State) : Result :=
  if 0 < s.usedIn then s.drainIn.okWith s.reportBytes
  else if s.zlpPending then (s.setZlp false).ok
  else s.nak

end Sys2Proof.Machine
end

