-- ==== Sys2Proof/Machine/SoftUart.lean ====
section
/-! DEFINITION. The software-UART engine (42_soft_uart.md): POLL, PINS, TICK and the events TXBIT, RXEDGE,
RXSAMPLE. -/

namespace Sys2Proof.Machine

/-- The transmitter as `tx_start` loads it with a byte (R193): `txd` is not written. -/
def Tx.load (t : Tx) (ocr : BitVec 16) (b : Byte) : Tx :=
  { t with frame := Machine.frame b, left := 11, cnt := bitPeriod ocr, idle := false }

/-- May the transmitter look at `cts` (R193): `SW_TX_CTS_GATE = 0 or cts = 1`. -/
def State.txPermitted (s : State) : Bool := !s.cfg.swTxCtsGate || s.cts

/-- `tx_start()` (R193). -/
def State.txStart (s : State) : State :=
  if s.tx.idle && s.txPermitted then
    match s.rbOut.dequeue s.cfg.capOut with
    | some (b, r) => (s.setOut r).setTx (s.tx.load s.ocr b)
    | none => s
  else s

/-- POLL (R192): software backend only, otherwise STALL (R96). -/
def execPoll (s : State) : Result :=
  match s.cfg.backend with
  | .software => s.txStart.gateEval.ok
  | .hardware => s.stall

/-- PINS (R199): latch the levels of the two input pins. -/
def execPins (p : Byte) (s : State) : Result := (s.setPins (pinsRxd p) (pinsCts p)).ok

/-- TXBIT (R196): drive the next bit and shift, or, one period after the stop bit, fall idle. -/
def Tx.bitEvent (t : Tx) (invert : Bool) (ocr : BitVec 16) : Tx :=
  if 1 < t.left then
    { t with
      txd := t.frame.getLsbD 9 ^^ invert
      frame := (t.frame <<< 1) ||| 1
      left := t.left - 1
      cnt := bitPeriod ocr }
  else { t with left := 0, idle := true }

/-- The transmitter's part of TICK (R200). -/
def Tx.tick (t : Tx) (invert : Bool) (ocr : BitVec 16) : Tx :=
  if t.left = 0 then t
  else
    let t1 := { t with cnt := t.cnt - 1 }
    if t1.cnt = 0 then t1.bitEvent invert ocr else t1

/-- The transmitter's part of TICK, on the state. -/
def State.txTick (s : State) : State := s.setTx (s.tx.tick s.cfg.invert s.ocr)

/-- RXEDGE (R205): eight samples to take, the first after `first` ticks. -/
def Rx.edge (r : Rx) (first : BitVec 17) : Rx := { r with left := 8, cnt := first }

/-- `rx_shift <- (lvl << 7) | (rx_shift >> 1)` (R208, R209). -/
def shiftIn (lvl : Bool) (shift : Byte) : Byte := (BitVec.ofBool lvl).setWidth 8 <<< 7 ||| shift >>> 1

/-- A completed byte goes to the inbound ring; if rejected it is dropped and nothing is recorded (R209, R162). -/
def State.pushIn (s : State) (b : Byte) : State :=
  match s.rbIn.enqueue s.cfg.capIn b with
  | some r => s.setIn r
  | none => s

/-- RXSAMPLE (R209), in the TICK in which `rx_cnt` has reached 0. -/
def State.rxSample (s : State) (lvl : Bool) : State :=
  let r := { s.rx with shift := shiftIn lvl s.rx.shift, left := s.rx.left - 1 }
  if r.left = 0 then ((s.setRx r).pushIn r.shift).gateEval
  else s.setRx { r with cnt := bitPeriod s.ocr }

/-- The receiver's events of TICK (R200): a sample when one is due, an edge when armed (R204). -/
def State.rxEvents (s : State) (lvl : Bool) : State :=
  if s.rx.left = 0 then
    if s.rx.prev && !lvl then s.setRx (s.rx.edge s.first) else s
  else
    let s1 := s.setRx { s.rx with cnt := s.rx.cnt - 1 }
    if s1.rx.cnt = 0 then s1.rxSample lvl else s1

/-- `rx_prev <- lvl`, at every TICK (R200, R204). -/
def State.followLine (s : State) (lvl : Bool) : State := s.setRx { s.rx with prev := lvl }

/-- The receiver's part of TICK (R200). -/
def State.rxTick (s : State) : State := (s.rxEvents s.rxLevel).followLine s.rxLevel

/-- TICK (R200): software backend only, otherwise STALL (R96). The transmitter's part runs first (R201). -/
def execTick (s : State) : Result :=
  match s.cfg.backend with
  | .software => s.txTick.rxTick.ok
  | .hardware => s.stall

end Sys2Proof.Machine
end

