-- ==== Sys2Proof/Machine/System.lean ====
section
/-! DEFINITION. RESET (70_reset_and_hazards.md R290), in its execution form; the table of its values is
10_state.md R51, written out as `State.resetOf` in Machine/State.lean. -/

namespace Sys2Proof.Machine

/-- A ring emptied: both indices 0, the cells keep whatever they held (R290, R292). -/
def Ring.clear (r : Ring) : Ring := { r with rd := 0, wr := 0 }

/-- `load_trim()` (R291). -/
def State.loadTrim (s : State) : State := s.applyTrim (bootTrim s.cfg s.nv)

/-- RESET before `load_trim` and `configure` (R290). -/
def State.clearAll (s : State) : State :=
  { s with
    rbIn := s.rbIn.clear
    rbOut := s.rbOut.clear
    usbAccept := true
    rts := true
    cts := true
    dtr := false
    zlpPending := false
    lc := s.cfg.defaultLc
    tx := ⟨true, 0x3FF, 0, 0, true ^^ s.cfg.invert⟩
    rx := ⟨0, 0, 0, true⟩
    pinRxd := true ^^ s.cfg.invert
    cal := ⟨.idle, 0, 0, 0, 0, 0, 0, 0, 0, 0⟩
    ovfOut := false
    ovfIn := false }

/-- RESET (R290): accepted in every state; `nv` survives. -/
def execReset (s : State) : Result := s.clearAll.loadTrim.configure.ok

end Sys2Proof.Machine
end

