-- ==== Sys2Proof/Machine/Dispatch.lean ====
section
/-! DEFINITION. The dispatch: one arm per operation of 30_encoding.md R92. -/

namespace Sys2Proof.Machine

def exec (i : Instr) (s : State) : Host.Outcome State Fault Refusal :=
  match i with
  | .reset => Sys2Proof.Machine.execReset s
  | .poll => Sys2Proof.Machine.execPoll s
  | .pollHw flags rxdata => Sys2Proof.Machine.execPollHw flags rxdata s
  | .busReset => Sys2Proof.Machine.execBusReset s
  | .meas x => Sys2Proof.Machine.execMeas x s
  | .usbOut data => Sys2Proof.Machine.execUsbOut data s
  | .usbInReady => Sys2Proof.Machine.execUsbInReady s
  | .setLineCoding l => Sys2Proof.Machine.execSetLineCoding l s
  | .getLineCoding => Sys2Proof.Machine.execGetLineCoding s
  | .setControlLineState v => Sys2Proof.Machine.execSetControlLineState v s
  | .pins p => Sys2Proof.Machine.execPins p s
  | .tick => Sys2Proof.Machine.execTick s
  | .rdreg n => Sys2Proof.Machine.execRdreg n s

end Sys2Proof.Machine
end

