-- ==== Sys2Proof/Machine/Fetch.lean ====
section
/-! DEFINITION. The operation port (30_encoding.md R90, R94): the packets waiting on it, oldest first. It
delivers whole packets only; what else stands on it is refused at the model's boundary. -/

namespace Sys2Proof.Machine

/-- Take the oldest packet from the port. -/
def State.takePacket (s : State) : Option (List Byte × State) :=
  match s.port with
  | [] => none
  | p :: rest => some (p, { s with port := rest })

/-- Put a packet where the next step takes it. -/
def State.givePacket (s : State) (p : List Byte) : State := { s with port := p :: s.port }

/-- A packet that names no operation: a reserved opcode or a wrong length is answered STALL with no state
change (R95, R96); a byte string that is no packet is refused (R94). -/
def State.rejectPacket (s : State) : DecodeError → Result
  | .notAPacket => .refused .notAPacket
  | .reservedOpcode => s.stall
  | .wrongLength => s.stall

end Sys2Proof.Machine
end

