-- ==== Sys2Proof/Machine/Step.lean ====
section
/-! DEFINITION. One step: the oldest packet on the operation port is decoded and executed (20_memory.md R70:
operations are atomic and run in arrival order). With nothing on the port nothing happens: no agent is obliged
to act (60_exceptions.md R280), and time advances only by TICK (00_scope.md R12). -/

namespace Sys2Proof.Machine

def step (s : State) : Host.Outcome State Fault Refusal :=
  match s.takePacket with
  | none => .next s
  | some (p, s1) =>
    match decode p with
    | .ok i => exec i s1
    | .error e => s1.rejectPacket e

/-- `s` with the packet of a table word (Decode.lean, `packetOfTableWord`) put where the next step takes it:
it stands for the outside world delivering that packet (notes/assumptions/5.md). -/
def State.withFetchWord (s : State) (nbits w : Nat) : State := s.givePacket (packetOfTableWord nbits w)

end Sys2Proof.Machine
end

