-- ==== Sys2Proof/Safety.lean ====
section
/-! DEFINITION. What counts as a good state and as a run, in the terms the statements use: the bytes waiting
in a ring (20_memory.md R77), the invariants of 10_state.md R52 and of the rules they are derived from, runs of
operations, and the pseudo-operations of 30_encoding.md R108 the statements need (LTICK, CAL, a played line). -/

namespace Sys2Proof.Machine

/-! ### Runs -/

/-- The operations `is` executed in order; `none` if one of them stops. -/
def runOps : List Instr → State → Option State
  | [], s => some s
  | i :: is, s =>
    match exec i s with
    | .next t => runOps is t
    | .fault _ => none
    | .refused _ => none

/-- PINS' operand for a pin level of the receive line and a level of clear-to-send (R99). -/
def pinByte (rxd cts : Bool) : Byte := packBits [rxd, cts]

/-- Play logical levels into the receive pin, one TICK each, `cts` kept at the given level (R108, R197). -/
def lineOps (c : Cfg) (cts : Bool) (levels : List Bool) : List Instr :=
  levels.flatMap (fun l => [.pins (pinByte (l ^^ c.invert) cts), .tick])

/-- `LTICK` (R108): loop the transmit pin back to the receive pin, then TICK. -/
def ltick (s : State) : Option State := runOps [.pins (pinByte s.tx.txd s.cts), .tick] s

/-- `LTICKS n` (R108). -/
def lticks : Nat → State → Option State
  | 0, s => some s
  | n + 1, s => (ltick s).bind (lticks n)

/-- The loop of `CAL f` (R108), `n` times: `MEAS =f(osctrim)`. -/
def calRun (f : Byte → Half) : Nat → State → Option State
  | 0, s => some s
  | n + 1, s => (runOps [.meas (f s.osctrim)] s).bind (calRun f n)

/-! ### The rings -/

/-- The bytes waiting in a ring, oldest first: the `used` cells from `rd` on, indices masked (R151, R77). -/
def Ring.contents (r : Ring) (cap : Nat) : List Byte :=
  (List.range (r.used cap)).map (fun i => Memory.read r.mem ((slot cap r.rd + i) % cap))

/-- The bytes waiting in IN. -/
def State.waitingIn (s : State) : List Byte := s.rbIn.contents s.cfg.capIn

/-- The bytes waiting in OUT. -/
def State.waitingOut (s : State) : List Byte := s.rbOut.contents s.cfg.capOut

/-- A ring's cells are in canonical form and in its space of `size` addresses (R60), its indices masked (R23,
R25). -/
abbrev Ring.Ok (r : Ring) (cap size : Nat) : Prop :=
  Memory.wf r.mem ∧ Memory.within r.mem size ∧ r.rd.toNat < cap ∧ r.wr.toNat < cap

/-- Both rings (R60: RBIN has `CAP_IN + PKT_IN - 1` addresses, RBOUT `CAP_OUT`). -/
abbrev State.BuffersOk (s : State) : Prop :=
  s.rbIn.Ok s.cfg.capIn (s.cfg.capIn + s.cfg.pktIn - 1) ∧ s.rbOut.Ok s.cfg.capOut s.cfg.capOut

/-- The gates agree with the free counts outside their bands (R159). -/
abbrev State.GatesOk (s : State) : Prop :=
  (s.freeOut < s.cfg.pktOut → s.usbAccept = false) ∧
  (s.freeOut > s.cfg.pktOut + s.cfg.outHeadroom → s.usbAccept = true) ∧
  (s.freeIn < s.cfg.inStopFree → s.rts = false) ∧
  (s.freeIn > s.cfg.inResumeFree → s.rts = true)

/-- Flow control: the gates, no outbound overflow (R52 item 4), no inbound overflow recorded by the software
backend (R264), no empty report owed where no report can be full (R52 item 8). -/
abbrev State.FlowOk (s : State) : Prop :=
  s.GatesOk ∧ s.ovfOut = false ∧ (s.cfg.backend = .software → s.ovfIn = false) ∧
  (s.cfg.capIn ≤ s.cfg.pktIn → s.zlpPending = false)

/-! ### The engines -/

/-- `ocr` and `first` follow the line coding (R33, R34, R52 item 6). -/
abbrev State.TimingOk (s : State) : Prop :=
  s.ocr = quantize s.cfg (rate s.lc) ∧
  s.first.toNat = (s.ocr.toNat + 1) + (s.ocr.toNat + 1) / 4

/-- The transmitter (R52 item 2, R37, R38), and what its shift register and line hold: the bits shifted in and
the stop bit are 1, and the line is at its idle level unless a start or data bit is being driven (R196). -/
abbrev Tx.Ok (t : Tx) (invert : Bool) : Prop :=
  (t.idle = true ↔ t.left = 0) ∧ (t.cnt = 0 ↔ t.left = 0) ∧
  t.left.toNat ≤ 11 ∧ t.cnt.toNat ≤ 65536 ∧
  (∀ i ∈ List.range 10, i + t.left.toNat < 12 → t.frame.getLsbD i = true) ∧
  (t.left.toNat ≤ 1 ∨ t.left.toNat = 11 → t.txd = (true ^^ invert))

/-- The receiver (R52 item 3, R40, R41). -/
abbrev Rx.Ok (r : Rx) : Prop :=
  (r.cnt = 0 ↔ r.left = 0) ∧ r.left.toNat ≤ 8 ∧ r.cnt.toNat ≤ 81920

/-- The software engine's state at reset (R51), which the hardware backend never leaves (R238, R253). -/
abbrev State.EngineIdle (s : State) : Prop :=
  s.tx = ⟨true, 0x3FF, 0, 0, true ^^ s.cfg.invert⟩ ∧ s.rx = ⟨0, 0, 0, true⟩

/-- Timing, transmitter and receiver, under both backends. -/
abbrev State.EnginesOk (s : State) : Prop :=
  s.TimingOk ∧ s.tx.Ok s.cfg.invert ∧ s.rx.Ok ∧ (s.cfg.backend = .hardware → s.EngineIdle)

/-! ### Calibration -/

/-- `dev(x) = absdiff(x, TARGET)` as a natural (R126). -/
def deviation (c : Cfg) (x : Half) : Nat := (x.toNat - c.target.toNat) + (c.target.toNat - x.toNat)

/-- `cal_base` is the start of a searched range: 0, or the upper half when `SPLIT = 1` (R44). -/
abbrev State.BaseOk (s : State) : Prop :=
  s.cal.base = 0 ∨ (s.cfg.split = true ∧ s.cal.base.toNat = 2 ^ s.cfg.k)

/-- Every trim-wide element is a trim value (R42, R44). -/
abbrev State.TrimsOk (s : State) : Prop :=
  s.osctrim.toNat < 2 ^ s.cfg.trimBits ∧ s.cal.saved.toNat < 2 ^ s.cfg.trimBits ∧
  s.cal.best.toNat < 2 ^ s.cfg.trimBits

/-- What a pass holds in each phase (R122, R127 to R133): the trim applied is the one whose measurement is
outstanding, the search stays inside its range (R130), the neighbourhood candidate is admissible (R132). -/
abbrev State.PhaseOk (s : State) : Prop :=
  (s.cal.phase = .base → s.osctrim = s.cal.saved) ∧
  (s.cal.phase = .splitp → s.cfg.split = true ∧ s.osctrim = s.cfg.splitProbe) ∧
  (s.cal.phase = .search →
    s.BaseOk ∧ s.osctrim = s.cal.trial ∧
    (∃ j ∈ List.range s.cfg.k, s.cal.step.toNat = 2 ^ j) ∧
    s.cal.base.toNat + s.cal.step.toNat ≤ s.cal.trial.toNat ∧
    s.cal.trial.toNat + s.cal.step.toNat ≤ s.cal.base.toNat + 2 ^ s.cfg.k) ∧
  (s.cal.phase = .neigh →
    s.BaseOk ∧ s.cal.idx.toNat ≤ 4 ∧
    s.osctrim.toNat + 2 = s.cal.coarse.toNat + s.cal.idx.toNat ∧
    (s.cal.base.toNat < s.cal.coarse.toNat ∧ s.cal.coarse.toNat < s.cal.base.toNat + 2 ^ s.cfg.k) ∧
    (s.cal.base.toNat ≤ s.osctrim.toNat ∧ s.osctrim.toNat < s.cal.base.toNat + 2 ^ s.cfg.k) ∧
    (s.cal.base.toNat ≤ s.cal.best.toNat ∧ s.cal.best.toNat < s.cal.base.toNat + 2 ^ s.cfg.k))

/-- The two states differ at most in the calibration elements and in the outputs (R121). -/
abbrev State.SameButCal (s t : State) : Prop :=
  t = { s with
    cal := t.cal, osctrim := t.osctrim, nv := t.nv, trace := t.trace, answer := t.answer }

/-- The number of admissible candidates around a coarse optimum (R137). -/
def State.candidates (s : State) : Nat :=
  5 - (s.cal.base.toNat + 2 - s.cal.coarse.toNat) -
    (s.cal.coarse.toNat + 2 - (s.cal.base.toNat + 2 ^ s.cfg.k - 1))

/-- The calibration sequencer (R52 item 7). -/
abbrev State.CalOk (s : State) : Prop := s.TrimsOk ∧ s.PhaseOk

/-- Everything a reachable state satisfies that this model states (R52). -/
abbrev State.Inv (s : State) : Prop := s.BuffersOk ∧ s.FlowOk ∧ s.EnginesOk ∧ s.CalOk

/-! ### Streams of bytes seen at the port -/

/-- The data of the USB_OUT packets that a run answers OK, in order (R160, R77). -/
def hostBytes : List Instr → State → List Byte
  | [], _ => []
  | i :: is, s =>
    match exec i s with
    | .next t =>
      (match i, t.answer with
       | .usbOut data, some ⟨.ok, _⟩ => data
       | _, _ => []) ++ hostBytes is t
    | .fault _ => []
    | .refused _ => []

/-- The payloads of the reports that a run answers, concatenated (R164, R77). -/
def reportedBytes : List Instr → State → List Byte
  | [], _ => []
  | i :: is, s =>
    match exec i s with
    | .next t =>
      (match i, t.answer with
       | .usbInReady, some a => a.bytes
       | _, _ => []) ++ reportedBytes is t
    | .fault _ => []
    | .refused _ => []

/-- The bytes a run's POLL_HW operations hand to the peripheral (R251, R253). -/
def peripheralBytes : List Instr → State → List Byte
  | [], _ => []
  | i :: is, s =>
    match exec i s with
    | .next t =>
      (match i, t.answer with
       | .pollHw _ _, some a => a.bytes
       | _, _ => []) ++ peripheralBytes is t
    | .fault _ => []
    | .refused _ => []

/-- The received bytes that a run's POLL_HW operations carry without an error flag (R252). -/
def goodBytes (is : List Instr) : List Byte :=
  is.flatMap (fun i =>
    match i with
    | .pollHw flags rxdata => if flagRxValid flags && !flagRxErr flags then [rxdata] else []
    | _ => [])

/-! ### What the hardware backend adds -/

/-- A `periph_cfg` event (R13, R255). -/
def Event.isPeriphCfg : Event → Bool
  | .periphCfg _ => true
  | .nvWrite _ => false
  | .trimWrite _ => false
  | .measRequest => false
  | .periphTx _ => false

end Sys2Proof.Machine

namespace Sys2Proof

/-- The operations that call `configure` (R191, R255). -/
def Instr.configures : Instr → Bool
  | .reset => true
  | .busReset => true
  | .setLineCoding _ => true
  | .poll => false
  | .pollHw _ _ => false
  | .meas _ => false
  | .usbOut _ => false
  | .usbInReady => false
  | .getLineCoding => false
  | .setControlLineState _ => false
  | .pins _ => false
  | .tick => false
  | .rdreg _ => false

end Sys2Proof

namespace Sys2Proof.Machine

/-! ### Cells no rule reads -/

/-- Two rings that agree on their indices and on the bytes waiting (R52 item 5, U20). -/
abbrev Ring.SameLive (r r' : Ring) (cap : Nat) : Prop :=
  r.rd = r'.rd ∧ r.wr = r'.wr ∧ r.contents cap = r'.contents cap

/-- Two states that differ at most in ring cells outside the occupied spans, the extension region among them. -/
abbrev State.SameButIdleCells (s s' : State) : Prop :=
  s' = { s with rbIn := s'.rbIn, rbOut := s'.rbOut } ∧
  s.rbIn.SameLive s'.rbIn s.cfg.capIn ∧ s.rbOut.SameLive s'.rbOut s.cfg.capOut

/-! ### The operation set and the register map, as the statements name them -/

/-- The opcodes of R92, written out. -/
def assignedOpcodes : List Byte :=
  [0x00, 0x01, 0x02, 0x10, 0x11, 0x12, 0x13, 0x20, 0x21, 0x22, 0x30, 0x31, 0x40]

/-- The fixed payload lengths of R91 and R92, written out: every operation but USB_OUT. -/
def fixedLengths : List (Byte × Nat) :=
  [(0x00, 0), (0x01, 0), (0x02, 2), (0x10, 0), (0x11, 2), (0x13, 0), (0x20, 7), (0x21, 0),
   (0x22, 2), (0x30, 1), (0x31, 0), (0x40, 1)]

/-- RDREG of a register answers OK with one byte and changes nothing; the byte is as described. -/
def Reads (s : State) (n : Byte) (is : Byte → Prop) : Prop :=
  ∃ x : Byte, exec (.rdreg n) s = .next { s with answer := some ⟨.ok, [x]⟩ } ∧ is x

end Sys2Proof.Machine
end

