-- ==== Sys2Proof/Certificates/Slice0/Obligations.lean ====
section
/-! DEFINITION. The statements about the model, each from the rules of spec/ its docstring names. -/

open Sys2Proof Sys2Proof.Machine

/-! ### Encoding -/

/-- R92, R99, R107: packets of every operation, written out from the table, decode to what they stand for. -/
def Obligations.TablePacketsDecode : Prop :=
  decode [0x00, 0x00] = .ok .reset ∧
  decode [0x01, 0x00] = .ok .poll ∧
  decode [0x02, 0x02, 0x05, 0x5B] = .ok (.pollHw 0x05 0x5B) ∧
  decode [0x10, 0x00] = .ok .busReset ∧
  decode [0x11, 0x02, 0x04, 0x04] = .ok (.meas 1028) ∧
  decode [0x12, 0x02, 0x41, 0x42] = .ok (.usbOut [0x41, 0x42]) ∧
  decode [0x13, 0x00] = .ok .usbInReady ∧
  decode [0x20, 0x07, 0x80, 0x25, 0x00, 0x00, 0x01, 0x02, 0x08] =
    .ok (.setLineCoding ⟨0x80, 0x25, 0x00, 0x00, 0x01, 0x02, 0x08⟩) ∧
  decode [0x21, 0x00] = .ok .getLineCoding ∧
  decode [0x22, 0x02, 0x03, 0x80] = .ok (.setControlLineState 0x8003) ∧
  decode [0x30, 0x01, 0x03] = .ok (.pins 0x03) ∧
  decode [0x31, 0x00] = .ok .tick ∧
  decode [0x40, 0x01, 0x1C] = .ok (.rdreg 0x1C)

/-- R90 to R101: the packet of every well-formed operation decodes to that operation. -/
def Obligations.DecodeOfEncode : Prop :=
  ∀ i : Instr, i.wellFormed = true → decode (encode i) = .ok i

/-- R90 to R101: a byte string that decodes is exactly the packet of the operation it decodes to. -/
def Obligations.EncodeOfDecode : Prop :=
  ∀ (p : List Byte) (i : Instr), decode p = .ok i → i.wellFormed = true ∧ encode i = p

/-- R95: a packet with a reserved opcode is answered STALL and changes no state, whatever its length and
payload. -/
def Obligations.ReservedOpcodeStalls : Prop :=
  ∀ (s : State) (op len : Byte) (payload : List Byte) (rest : List (List Byte)),
    s.port = (op :: len :: payload) :: rest → payload.length = len.toNat → op ∉ assignedOpcodes →
    step s = .next { s with port := rest, answer := some ⟨.stall, []⟩ }

/-- R96: (a) a wrong length, (b) a USB_OUT longer than PKT_OUT, (c) an operation of the other backend: STALL,
no state change. -/
def Obligations.MalformedPacketStalls : Prop :=
  ∀ (s : State) (op len : Byte) (payload : List Byte) (rest : List (List Byte)),
    s.port = (op :: len :: payload) :: rest → payload.length = len.toNat →
    ((∃ n, (op, n) ∈ fixedLengths ∧ len.toNat ≠ n) ∨
     (op = 0x12 ∧ s.cfg.pktOut < len.toNat) ∨
     (s.cfg.backend = .hardware ∧ (op = 0x01 ∨ op = 0x31)) ∨
     (s.cfg.backend = .software ∧ op = 0x02)) →
    step s = .next { s with port := rest, answer := some ⟨.stall, []⟩ }

/-- R94: a byte string shorter than two bytes, or whose length is not `2 + len`, is refused at the boundary. -/
def Obligations.NonPacketRefused : Prop :=
  ∀ (s : State) (p : List Byte) (rest : List (List Byte)), s.port = p :: rest →
    (p.length < 2 ∨ ∃ len, p[1]? = some len ∧ p.length ≠ 2 + len.toNat) →
    step s = .refused .notAPacket

/-- R70, R94: a step executes the decoded operation on the state from which its packet is taken, whatever waits
behind it; with nothing on the port nothing happens (the model's choice, notes/assumptions/5.md). -/
def Obligations.StepRunsDecodedOperation : Prop :=
  (∀ (s : State) (p : List Byte) (rest : List (List Byte)) (i : Instr),
    s.port = p :: rest → decode p = .ok i → step s = exec i { s with port := rest }) ∧
  (∀ s : State, s.port = [] → step s = .next s)

/-! ### Answers and refusals -/

/-- R97, R98, R281: every operation is answered in every state, by a packet of a status byte, the length of its
payload and the payload R98 gives it. -/
def Obligations.EveryOperationIsAnswered : Prop :=
  ∀ (i : Instr) (s : State), ∃ (t : State) (a : Answer),
    exec i s = .next t ∧ t.answer = some a ∧
    (∃ alen : Byte, alen.toNat = a.bytes.length ∧
      ((a.status = .ok ∧ a.packet = 0x00 :: alen :: a.bytes) ∨
       (a.status = .nak ∧ a.packet = 0x01 :: alen :: a.bytes) ∨
       (a.status = .stall ∧ a.packet = 0x02 :: alen :: a.bytes))) ∧
    (a.status ≠ .ok → a.bytes = []) ∧
    (a.status = .ok →
      match i with
      | .usbInReady => a.bytes.length ≤ s.cfg.pktIn
      | .getLineCoding => a.bytes.length = 7
      | .rdreg _ => a.bytes.length = 1
      | .pollHw _ _ => a.bytes.length ≤ 1
      | _ => a.bytes = [])

/-- R260: a refused operation changes no state element and emits no trace event. -/
def Obligations.RefusalChangesNothing : Prop :=
  ∀ (i : Instr) (s t : State) (a : Answer),
    exec i s = .next t → t.answer = some a → a.status ≠ .ok → t = { s with answer := some a }

/-- R260's list: exactly which decoded operations are answered NAK and which STALL. -/
def Obligations.RefusalsAreExactlyListed : Prop :=
  ∀ (i : Instr) (s t : State), exec i s = .next t →
    ((∃ bytes, t.answer = some ⟨.nak, bytes⟩) ↔
      (∃ x, i = .meas x ∧ s.cal.phase = .idle) ∨
      (∃ data, i = .usbOut data ∧ s.usbAccept = false ∧ data.length ≤ s.cfg.pktOut) ∨
      (i = .usbInReady ∧ s.usedIn = 0 ∧ s.zlpPending = false)) ∧
    ((∃ bytes, t.answer = some ⟨.stall, bytes⟩) ↔
      (∃ data, i = .usbOut data ∧ s.cfg.pktOut < data.length) ∨
      ((i = .poll ∨ i = .tick) ∧ s.cfg.backend = .hardware) ∨
      (∃ flags rxdata, i = .pollHw flags rxdata ∧ s.cfg.backend = .software) ∨
      (∃ n, i = .rdreg n ∧ 0x1C < n.toNat))

/-! ### Reset -/

/-- R51, R290 to R292: after RESET every element holds the listed value; `nv` and the rings' cells survive; the
trace grows by `trim_write`, then under the hardware backend `periph_cfg`. -/
def Obligations.ResetLeavesListedValues : Prop :=
  ∀ s : State, ∃ t : State, exec .reset s = .next t ∧
    t = { s with
      rbIn := ⟨s.rbIn.mem, 0, 0⟩, rbOut := ⟨s.rbOut.mem, 0, 0⟩,
      usbAccept := true, rts := true, cts := true, dtr := false, zlpPending := false,
      lc := s.cfg.defaultLc, ocr := quantize s.cfg (rate s.cfg.defaultLc), first := t.first,
      tx := ⟨true, 0x3FF, 0, 0, true ^^ s.cfg.invert⟩,
      rx := ⟨0, 0, 0, true⟩, pinRxd := true ^^ s.cfg.invert,
      osctrim := t.osctrim,
      cal := ⟨.idle, 0, 0, 0, 0, 0, 0, 0, 0, 0⟩,
      ovfOut := false, ovfIn := false,
      answer := some ⟨.ok, []⟩, trace := t.trace } ∧
    t.first.toNat = (t.ocr.toNat + 1) + (t.ocr.toNat + 1) / 4 ∧
    (s.nv = 0xFF → t.osctrim = s.cfg.defaultTrim) ∧
    (s.nv ≠ 0xFF → t.osctrim.toNat = s.nv.toNat % 2 ^ s.cfg.trimBits) ∧
    t.trace = s.trace ++ [.trimWrite t.osctrim] ++
      (if s.cfg.backend = .hardware then [.periphCfg s.cfg.defaultLc] else [])

/-- R52: the state after RESET, for every configuration and every launch value of `nv`, satisfies every
invariant of the model. (What the rings' cells hold there is the model's choice, notes/assumptions/4.md.) -/
def Obligations.ResetSatisfiesInvariants : Prop :=
  ∀ (c : Cfg) (nv : Byte), (State.resetOf c nv).Inv

/-! ### Invariants every step keeps -/

/-- R52 items 4 and 8, R159, R60: canonical cells inside their spaces, masked indices, gates that agree with the
free counts, no outbound overflow: every step keeps them, from every state that has them. -/
def Obligations.StepKeepsBuffersAndGates : Prop :=
  ∀ s t : State, step s = .next t → s.BuffersOk → s.FlowOk → t.BuffersOk ∧ t.FlowOk

/-- R52 items 2, 3 and 6, R37 to R41, R253: the timing elements follow the line coding, the transmitter and the
receiver keep their laws and the line its idle level, and the hardware backend leaves the engine at its reset
values: every step keeps it. -/
def Obligations.StepKeepsEngines : Prop :=
  ∀ s t : State, step s = .next t → s.EnginesOk → t.EnginesOk

/-- R52 item 7, R130, R132, R138: a pass's search and neighbourhood stay inside their range and the trim applied
is the one being measured: every step keeps it. -/
def Obligations.StepKeepsCalibration : Prop :=
  ∀ s t : State, step s = .next t → s.CalOk → t.CalOk

/-! ### Who writes what -/

/-- R27 to R45: each element is written by the operations its rule names and by no other. -/
def Obligations.OnlyNamedOperationsWrite : Prop :=
  ∀ (i : Instr) (s t : State), exec i s = .next t →
    t.cfg = s.cfg ∧ t.port = s.port ∧
    (t.dtr ≠ s.dtr → i = .reset ∨ ∃ v, i = .setControlLineState v) ∧
    (t.cts ≠ s.cts ∨ t.pinRxd ≠ s.pinRxd → i = .reset ∨ ∃ p, i = .pins p) ∧
    (t.lc ≠ s.lc ∨ t.ocr ≠ s.ocr ∨ t.first ≠ s.first →
      i = .reset ∨ i = .busReset ∨ ∃ l, i = .setLineCoding l) ∧
    (t.zlpPending ≠ s.zlpPending → i = .reset ∨ i = .usbInReady) ∧
    (t.usbAccept ≠ s.usbAccept →
      i = .reset ∨ i = .poll ∨ i = .tick ∨ i = .usbInReady ∨ (∃ data, i = .usbOut data) ∨
        ∃ flags rxdata, i = .pollHw flags rxdata) ∧
    (t.rts ≠ s.rts →
      i = .reset ∨ i = .poll ∨ i = .tick ∨ i = .usbInReady ∨ (∃ data, i = .usbOut data) ∨
        ∃ flags rxdata, i = .pollHw flags rxdata) ∧
    (t.tx ≠ s.tx → i = .reset ∨ i = .poll ∨ i = .tick) ∧
    (t.tx.txd ≠ s.tx.txd → i = .reset ∨ i = .tick) ∧
    (t.rx ≠ s.rx → i = .reset ∨ i = .tick) ∧
    (t.cal ≠ s.cal ∨ t.osctrim ≠ s.osctrim → i = .reset ∨ i = .busReset ∨ ∃ x, i = .meas x) ∧
    (t.nv ≠ s.nv → ∃ x, i = .meas x) ∧
    (t.ovfOut ≠ s.ovfOut → i = .reset ∨ ∃ data, i = .usbOut data) ∧
    (t.ovfIn ≠ s.ovfIn → i = .reset ∨ ∃ flags rxdata, i = .pollHw flags rxdata)

/-- R26, R22: each index and each byte of a store is written by exactly one producer or consumer, which for `mem_in`,
`wr_in` and `rd_out` is the one of the built backend; the extension region is USB_IN_READY's (RESET apart, which
writes the indices, R290). -/
def Obligations.OneWriterPerIndex : Prop :=
  ∀ (i : Instr) (s t : State), exec i s = .next t → i ≠ .reset →
    (t.rbIn.wr ≠ s.rbIn.wr →
      (s.cfg.backend = .software ∧ i = .tick) ∨
      (s.cfg.backend = .hardware ∧ ∃ flags rxdata, i = .pollHw flags rxdata)) ∧
    (t.rbIn.rd ≠ s.rbIn.rd → i = .usbInReady) ∧
    (t.rbOut.wr ≠ s.rbOut.wr → ∃ data, i = .usbOut data) ∧
    (t.rbOut.rd ≠ s.rbOut.rd →
      (s.cfg.backend = .software ∧ i = .poll) ∨
      (s.cfg.backend = .hardware ∧ ∃ flags rxdata, i = .pollHw flags rxdata)) ∧
    (t.rbOut.mem ≠ s.rbOut.mem → ∃ data, i = .usbOut data) ∧
    (t.rbIn.mem ≠ s.rbIn.mem →
      i = .usbInReady ∨ (s.cfg.backend = .software ∧ i = .tick) ∨
      (s.cfg.backend = .hardware ∧ ∃ flags rxdata, i = .pollHw flags rxdata)) ∧
    (∀ a, a < s.cfg.capIn → Memory.read t.rbIn.mem a ≠ Memory.read s.rbIn.mem a →
      (s.cfg.backend = .software ∧ i = .tick) ∨
      (s.cfg.backend = .hardware ∧ ∃ flags rxdata, i = .pollHw flags rxdata)) ∧
    (∀ a, s.cfg.capIn ≤ a → Memory.read t.rbIn.mem a ≠ Memory.read s.rbIn.mem a → i = .usbInReady)

/-! ### Memory and rings -/

/-- R151: occupancy. `used = (wr - rd) mod CAP`; `used + free = CAP - 1`; empty exactly when `rd = wr`; full exactly when
`(wr + 1) & MASK = rd`. -/
def Obligations.OccupancyLaw : Prop :=
  ∀ (cap : Nat) (r : Ring), cap ∈ capacities → r.rd.toNat < cap → r.wr.toNat < cap →
    r.used cap = (r.wr.toNat + cap - r.rd.toNat) % cap ∧
    r.used cap + r.free cap = cap - 1 ∧
    (r.used cap = 0 ↔ r.rd = r.wr) ∧
    (r.free cap = 0 ↔ (r.wr.toNat + 1) % cap = r.rd.toNat)

/-- R152, R153, R77: a ring is a first-in first-out queue of at most `CAP - 1` bytes. -/
def Obligations.RingRefinesQueue : Prop :=
  ∀ (cap : Nat) (r : Ring) (b : Byte), cap ∈ capacities → Memory.wf r.mem →
    (match r.enqueue cap b with
     | none => (r.contents cap).length = cap - 1
     | some r' => (r.contents cap).length < cap - 1 ∧ r'.contents cap = r.contents cap ++ [b]) ∧
    (match r.dequeue cap with
     | none => r.contents cap = []
     | some (x, r') => r.contents cap = x :: r'.contents cap)

/-- R155 to R159: after every operation each gate is closed below its stop threshold, open above its resume
threshold, and unchanged in between. -/
def Obligations.GatesFollowHysteresis : Prop :=
  ∀ (i : Instr) (s t : State), exec i s = .next t → s.GatesOk →
    (t.freeOut < s.cfg.pktOut → t.usbAccept = false) ∧
    (t.freeOut > s.cfg.pktOut + s.cfg.outHeadroom → t.usbAccept = true) ∧
    (s.cfg.pktOut ≤ t.freeOut → t.freeOut ≤ s.cfg.pktOut + s.cfg.outHeadroom →
      t.usbAccept = s.usbAccept) ∧
    (t.freeIn < s.cfg.inStopFree → t.rts = false) ∧
    (s.cfg.inStopFree ≤ t.freeIn → t.freeIn > s.cfg.inResumeFree → t.rts = true) ∧
    (s.cfg.inStopFree ≤ t.freeIn → t.freeIn ≤ s.cfg.inResumeFree → t.rts = s.rts)

/-- R160, R161, R152: a packet no longer than PKT_OUT at an open gate is stored whole, in payload order, in the
cells from `wr_out` on; nothing else changes but the write index and the gate. -/
def Obligations.UsbOutStoresPacket : Prop :=
  ∀ (s : State) (data : List Byte), s.BuffersOk → s.GatesOk → s.usbAccept = true →
    data.length ≤ s.cfg.pktOut →
    ∃ t : State, exec (.usbOut data) s = .next t ∧
      t.waitingOut = s.waitingOut ++ data ∧
      t.rbOut.wr.toNat = (s.rbOut.wr.toNat + data.length) % s.cfg.capOut ∧
      t.rbOut.rd = s.rbOut.rd ∧
      (∀ a, (∀ j < data.length, a ≠ (s.rbOut.wr.toNat + j) % s.cfg.capOut) →
        Memory.read t.rbOut.mem a = Memory.read s.rbOut.mem a) ∧
      t = { s with rbOut := t.rbOut, usbAccept := t.usbAccept, answer := some ⟨.ok, []⟩ }

/-- R163 to R166: with data waiting, a report carries the oldest `min(used, PKT_IN)` bytes; the wrapped tail is
copied to the extension region, whose other cells and the ring store keep their bytes; the read index advances
and `zlp_pending` records whether the report was full. -/
def Obligations.ReportTakesOldestBytes : Prop :=
  ∀ s : State, s.BuffersOk → s.usedIn ≠ 0 →
    ∃ t : State, exec .usbInReady s = .next t ∧
      t.answer = some ⟨.ok, s.waitingIn.take s.cfg.pktIn⟩ ∧
      t.waitingIn = s.waitingIn.drop s.cfg.pktIn ∧
      t.rbIn.rd.toNat = (s.rbIn.rd.toNat + min s.usedIn s.cfg.pktIn) % s.cfg.capIn ∧
      t.rbIn.wr = s.rbIn.wr ∧
      (t.zlpPending = true ↔ s.cfg.pktIn ≤ s.usedIn) ∧
      (∀ j, s.cfg.capIn + j < s.rbIn.rd.toNat + min s.usedIn s.cfg.pktIn →
        Memory.read t.rbIn.mem (s.cfg.capIn + j) = Memory.read s.rbIn.mem j) ∧
      (∀ a, a < s.cfg.capIn ∨ s.rbIn.rd.toNat + min s.usedIn s.cfg.pktIn ≤ a →
        Memory.read t.rbIn.mem a = Memory.read s.rbIn.mem a) ∧
      t = { s with
        rbIn := t.rbIn, zlpPending := t.zlpPending, usbAccept := t.usbAccept, rts := t.rts,
        answer := t.answer }

/-- R166: with nothing waiting and an empty report owed, exactly one empty report goes out, then NAK. -/
def Obligations.EmptyReportGoesOutOnce : Prop :=
  ∀ s : State, s.usedIn = 0 → s.zlpPending = true →
    ∃ t : State, exec .usbInReady s = .next t ∧
      t = { s with zlpPending := false, answer := some ⟨.ok, []⟩ } ∧
      exec .usbInReady t = .next { t with answer := some ⟨.nak, []⟩ }

/-- R77 for one operation, inbound: what is waiting afterwards is what was waiting, less the report's bytes,
plus at most one received byte at the end. -/
def Obligations.InboundIsFifo : Prop :=
  ∀ (i : Instr) (s t : State), exec i s = .next t → s.BuffersOk → i ≠ .reset →
    ∃ added removed : List Byte, s.waitingIn ++ added = removed ++ t.waitingIn ∧
      (added = [] ∨ (i = .tick ∧ added = [t.rx.shift]) ∨
        ∃ flags rxdata, i = .pollHw flags rxdata ∧ added = [rxdata]) ∧
      (i ≠ .usbInReady → removed = []) ∧
      (i = .usbInReady → ∃ st, t.answer = some ⟨st, removed⟩)

/-- R77 for one operation, outbound: a packet answered OK is added whole at the end; POLL takes the oldest byte
into the transmit frame, POLL_HW hands it to the peripheral. -/
def Obligations.OutboundIsFifo : Prop :=
  ∀ (i : Instr) (s t : State), exec i s = .next t → s.BuffersOk → s.GatesOk → i ≠ .reset →
    ∃ added removed : List Byte, s.waitingOut ++ added = removed ++ t.waitingOut ∧
      (∀ data bytes, i = .usbOut data → t.answer = some ⟨.ok, bytes⟩ → added = data) ∧
      (added ≠ [] → i = .usbOut added ∧ t.answer = some ⟨.ok, []⟩) ∧
      (removed = [] ∨ (i = .poll ∧ ∃ b, removed = [b] ∧ t.tx.frame = frame b) ∨
        ∃ flags rxdata, i = .pollHw flags rxdata ∧ t.answer = some ⟨.ok, removed⟩)

/-- R77 over a whole run under the hardware backend: host bytes accepted leave toward the peripheral in order,
none lost, none duplicated, and what is not yet out is what is waiting. -/
def Obligations.OutboundStreamIsPreserved : Prop :=
  ∀ (is : List Instr) (s t : State), s.BuffersOk → s.GatesOk → s.cfg.backend = .hardware →
    .reset ∉ is → runOps is s = some t →
    s.waitingOut ++ hostBytes is s = peripheralBytes is s ++ t.waitingOut

/-- R77, R252, R263 over a whole run under the hardware backend: the reports carry the good received bytes in
order; none is lost unless `ovf_in` says so. -/
def Obligations.InboundStreamIsPreserved : Prop :=
  ∀ (is : List Instr) (s t : State), s.BuffersOk → s.cfg.backend = .hardware →
    .reset ∉ is → runOps is s = some t →
    ∃ kept : List Byte, kept.Sublist (goodBytes is) ∧
      (t.ovfIn = false → kept = goodBytes is) ∧
      s.waitingIn ++ kept = reportedBytes is s ++ t.waitingIn

/-- R52 item 5, U20: no operation reads a cell outside the occupied spans. Two states that differ only in such
cells are answered alike and go on differing only in such cells. -/
def Obligations.IdleCellsAreNeverRead : Prop :=
  ∀ (i : Instr) (s s' t : State), s.BuffersOk → s'.BuffersOk → s.SameButIdleCells s' →
    exec i s = .next t → ∃ t', exec i s' = .next t' ∧ t.SameButIdleCells t'

/-! ### Calibration -/

/-- R122, R123: BUS_RESET resets the line coding, restores the saved trim of a running pass or saves the trim in
force, and starts a pass; nothing else changes. -/
def Obligations.BusResetStartsPass : Prop :=
  ∀ s : State, ∃ t : State, exec .busReset s = .next t ∧
    t.lc = s.cfg.defaultLc ∧
    t.ocr = quantize s.cfg (rate s.cfg.defaultLc) ∧
    t.first.toNat = (t.ocr.toNat + 1) + (t.ocr.toNat + 1) / 4 ∧
    t.osctrim = (if s.cal.phase = .idle then s.osctrim else s.cal.saved) ∧
    t.cal = { s.cal with phase := .base, saved := t.osctrim } ∧
    t.trace = s.trace ++
      (if s.cfg.backend = .hardware then [.periphCfg s.cfg.defaultLc] else []) ++
      (if s.cal.phase = .idle then [] else [.trimWrite s.cal.saved]) ++ [.measRequest] ∧
    t = { s with
      lc := t.lc, ocr := t.ocr, first := t.first, osctrim := t.osctrim, cal := t.cal, trace := t.trace,
      answer := some ⟨.ok, []⟩ }

/-- R127, R126, R129: the baseline step records the deviation, then applies the split probe, or starts the search
in the middle of the whole range. -/
def Obligations.MeasRecordsBaseline : Prop :=
  ∀ (s : State) (x : Half), s.cal.phase = .base →
    ∃ t : State, exec (.meas x) s = .next t ∧ s.SameButCal t ∧ t.nv = s.nv ∧
      t.answer = some ⟨.ok, []⟩ ∧
      t.cal.baseDev.toNat = deviation s.cfg x ∧
      t.trace = s.trace ++ [.trimWrite t.osctrim, .measRequest] ∧
      (s.cfg.split = true → t.osctrim = s.cfg.splitProbe ∧
        t.cal = { s.cal with baseDev := t.cal.baseDev, phase := .splitp }) ∧
      (s.cfg.split = false → t.osctrim.toNat = 2 ^ (s.cfg.k - 1) ∧
        t.cal = { s.cal with
          baseDev := t.cal.baseDev, base := 0, trial := t.osctrim, step := t.osctrim,
          phase := .search })

/-- R128, R129: below target at the probe the upper half is searched, otherwise the lower; the search starts in
the middle of the half. -/
def Obligations.MeasChoosesHalf : Prop :=
  ∀ (s : State) (x : Half), s.cal.phase = .splitp → s.cfg.split = true →
    ∃ t : State, exec (.meas x) s = .next t ∧ s.SameButCal t ∧ t.nv = s.nv ∧
      t.answer = some ⟨.ok, []⟩ ∧
      t.cal.base.toNat = (if x.toNat < s.cfg.target.toNat then 2 ^ s.cfg.k else 0) ∧
      t.osctrim.toNat = t.cal.base.toNat + 2 ^ (s.cfg.k - 1) ∧
      t.cal.step.toNat = 2 ^ (s.cfg.k - 1) ∧
      t.cal = { s.cal with
        base := t.cal.base, trial := t.osctrim, step := t.cal.step, phase := .search } ∧
      t.trace = s.trace ++ [.trimWrite t.osctrim, .measRequest]

/-- R130: while the halved step is not zero, the trial moves by it, up when too slow and down when too fast or
exact. -/
def Obligations.MeasHalvesStep : Prop :=
  ∀ (s : State) (x : Half), s.CalOk → s.cal.phase = .search → 2 ≤ s.cal.step.toNat →
    ∃ t : State, exec (.meas x) s = .next t ∧ s.SameButCal t ∧ t.nv = s.nv ∧
      t.answer = some ⟨.ok, []⟩ ∧
      t.cal.step.toNat = s.cal.step.toNat / 2 ∧
      t.osctrim.toNat =
        (if x.toNat < s.cfg.target.toNat then s.cal.trial.toNat + s.cal.step.toNat / 2
         else s.cal.trial.toNat - s.cal.step.toNat / 2) ∧
      t.cal = { s.cal with trial := t.osctrim, step := t.cal.step } ∧
      t.trace = s.trace ++ [.trimWrite t.osctrim, .measRequest]

/-- R130, R131: a search that ends with a deviation worse than the baseline is abandoned, the original trim
restored, `nv` untouched and no measurement asked for. -/
def Obligations.MeasAbandonsWorseResult : Prop :=
  ∀ (s : State) (x : Half), s.cal.phase = .search → s.cal.step.toNat ≤ 1 →
    s.cal.baseDev.toNat < deviation s.cfg x →
    exec (.meas x) s = .next { s with
      osctrim := s.cal.saved, cal := { s.cal with coarse := s.cal.trial, phase := .idle },
      trace := s.trace ++ [.trimWrite s.cal.saved], answer := some ⟨.ok, []⟩ }

/-- R130 to R132: a search that ends no worse than the baseline goes on to the neighbourhood, at its lowest
admissible candidate. -/
def Obligations.MeasStartsNeighbourhood : Prop :=
  ∀ (s : State) (x : Half), s.CalOk → s.cal.phase = .search → s.cal.step.toNat ≤ 1 →
    deviation s.cfg x ≤ s.cal.baseDev.toNat →
    ∃ t : State, exec (.meas x) s = .next t ∧ s.SameButCal t ∧ t.nv = s.nv ∧
      t.answer = some ⟨.ok, []⟩ ∧
      t.osctrim.toNat = max s.cal.base.toNat (s.cal.trial.toNat - 2) ∧
      t.cal.idx.toNat = t.osctrim.toNat + 2 - s.cal.trial.toNat ∧
      t.cal = { s.cal with
        coarse := s.cal.trial, best := s.cal.trial, bestDev := 0xFFFF, idx := t.cal.idx,
        phase := .neigh } ∧
      t.trace = s.trace ++ [.trimWrite t.osctrim, .measRequest]

/-- R133: a neighbourhood measurement keeps the candidate with the strictly smaller deviation and, while a later
admissible candidate exists, applies the next. -/
def Obligations.MeasTriesNextCandidate : Prop :=
  ∀ (s : State) (x : Half), s.CalOk → s.cal.phase = .neigh → s.cal.idx.toNat < 4 →
    s.osctrim.toNat + 1 < s.cal.base.toNat + 2 ^ s.cfg.k →
    ∃ t : State, exec (.meas x) s = .next t ∧ s.SameButCal t ∧ t.nv = s.nv ∧
      t.answer = some ⟨.ok, []⟩ ∧
      t.osctrim.toNat = s.osctrim.toNat + 1 ∧ t.cal.idx.toNat = s.cal.idx.toNat + 1 ∧
      (deviation s.cfg x < s.cal.bestDev.toNat →
        t.cal.best = s.osctrim ∧ t.cal.bestDev.toNat = deviation s.cfg x) ∧
      (s.cal.bestDev.toNat ≤ deviation s.cfg x →
        t.cal.best = s.cal.best ∧ t.cal.bestDev = s.cal.bestDev) ∧
      t.cal = { s.cal with best := t.cal.best, bestDev := t.cal.bestDev, idx := t.cal.idx } ∧
      t.trace = s.trace ++ [.trimWrite t.osctrim, .measRequest]

/-- R133, R134: after the last candidate the winner is applied, and stored only if it differs from the stored
byte. -/
def Obligations.MeasFinishesPass : Prop :=
  ∀ (s : State) (x : Half), s.CalOk → s.cal.phase = .neigh →
    (s.cal.idx.toNat = 4 ∨ s.osctrim.toNat + 1 = s.cal.base.toNat + 2 ^ s.cfg.k) →
    ∃ t : State, exec (.meas x) s = .next t ∧ s.SameButCal t ∧
      t.answer = some ⟨.ok, []⟩ ∧
      t.osctrim = (if deviation s.cfg x < s.cal.bestDev.toNat then s.osctrim else s.cal.best) ∧
      t.cal = { s.cal with best := t.osctrim, bestDev := t.cal.bestDev, phase := .idle } ∧
      t.cal.bestDev.toNat = min (deviation s.cfg x) s.cal.bestDev.toNat ∧
      t.nv = t.osctrim ∧
      t.trace = s.trace ++ [.trimWrite t.osctrim] ++
        (if t.osctrim = s.nv then [] else [.nvWrite t.osctrim])

/-- R136: all transitions of `cal_phase`. -/
def Obligations.PhaseTransitions : Prop :=
  ∀ (i : Instr) (s t : State), exec i s = .next t →
    (i = .reset → t.cal.phase = .idle) ∧
    (i = .busReset → t.cal.phase = .base) ∧
    (∀ x, i = .meas x →
      (s.cal.phase = .idle → t.cal.phase = .idle ∧ t.answer = some ⟨.nak, []⟩) ∧
      (s.cal.phase = .base → s.cfg.split = true → t.cal.phase = .splitp) ∧
      (s.cal.phase = .base → s.cfg.split = false → t.cal.phase = .search) ∧
      (s.cal.phase = .splitp → t.cal.phase = .search) ∧
      (s.cal.phase = .search → s.cal.step >>> 1 ≠ 0 → t.cal.phase = .search) ∧
      (s.cal.phase = .search → s.cal.step >>> 1 = 0 → s.cal.baseDev.toNat < deviation s.cfg x →
        t.cal.phase = .idle) ∧
      (s.cal.phase = .search → s.cal.step >>> 1 = 0 → deviation s.cfg x ≤ s.cal.baseDev.toNat →
        t.cal.phase = .neigh) ∧
      (s.cal.phase = .neigh →
        ((∃ j : Nat, s.cal.idx.toNat < j ∧ j ≤ 4 ∧
            (s.cal.base.toNat : Int) ≤ s.cal.coarse.toNat - 2 + j ∧
            (s.cal.coarse.toNat : Int) - 2 + j ≤ s.cal.base.toNat + 2 ^ s.cfg.k - 1) →
          t.cal.phase = .neigh) ∧
        ((¬ ∃ j : Nat, s.cal.idx.toNat < j ∧ j ≤ 4 ∧
            (s.cal.base.toNat : Int) ≤ s.cal.coarse.toNat - 2 + j ∧
            (s.cal.coarse.toNat : Int) - 2 + j ≤ s.cal.base.toNat + 2 ^ s.cfg.k - 1) →
          t.cal.phase = .idle))) ∧
    (i ≠ .reset → i ≠ .busReset → (∀ x, i ≠ .meas x) → t.cal.phase = s.cal.phase)

/-- R42, R67, R134: every change of the trim register and of the non-volatile byte is traced; the byte is written
only at the end of a pass and only when it changes. -/
def Obligations.TrimAndNvWritesAreTraced : Prop :=
  ∀ (i : Instr) (s t : State), exec i s = .next t →
    ∃ events, t.trace = s.trace ++ events ∧
      (t.osctrim ≠ s.osctrim → Event.trimWrite t.osctrim ∈ events) ∧
      (t.nv ≠ s.nv → Event.nvWrite t.nv ∈ events) ∧
      (∀ v, Event.nvWrite v ∈ events →
        t.nv = v ∧ s.nv ≠ v ∧ s.cal.phase = .neigh ∧ t.cal.phase = .idle ∧ t.osctrim = v)

/-- R140, R131, R121: a pass that its guard abandons restores the trim in force when BUS_RESET arrived and leaves
`nv` as it was, whatever other operations fall between its steps. -/
def Obligations.AbandonedPassRestoresTrim : Prop :=
  ∀ (is : List Instr) (s t u v : State) (x : Half), s.cal.phase = .idle →
    exec .busReset s = .next t → (∀ i ∈ is, i ≠ .reset ∧ i ≠ .busReset) → runOps is t = some u →
    u.cal.phase = .search → exec (.meas x) u = .next v → v.cal.phase = .idle →
    v.osctrim = v.cal.saved ∧ v.osctrim = s.osctrim ∧ v.nv = s.nv

/-- R137: from the baseline, the search ends after exactly `1 + SPLIT + K` measurements, the pass then being
abandoned or taking exactly `c` more, `c` the number of admissible candidates. -/
def Obligations.PassTakesCountedMeasurements : Prop :=
  ∀ (s : State) (xs ys : List Half), s.CalOk → s.cal.phase = .base →
    xs.length = 1 + s.cfg.split.toNat + s.cfg.k →
    (∀ n < xs.length, ∃ w, runOps ((xs.take n).map .meas) s = some w ∧ w.cal.phase ≠ .idle) ∧
    ∃ u, runOps (xs.map .meas) s = some u ∧
      (u.cal.phase = .idle ∨
        (u.cal.phase = .neigh ∧ u.candidates ≤ 5 ∧ (ys.length = u.candidates →
          (∀ n < ys.length, ∃ w, runOps ((ys.take n).map .meas) u = some w ∧ w.cal.phase = .neigh) ∧
          ∃ v, runOps (ys.map .meas) u = some v ∧ v.cal.phase = .idle)))

/-- R139: on a non-decreasing oscillator the search of a range ends at the least trim that reaches the target or
one below it, clipped into the range, within one trim unit of a trim of least deviation; and the neighbourhood
search, if the guard lets it run, ends exactly at a trim of least deviation. -/
def Obligations.CalibrationConverges : Prop :=
  ∀ (s : State) (f : Byte → Half), s.CalOk → s.cal.phase = .search →
    s.cal.step.toNat = 2 ^ (s.cfg.k - 1) →
    (∀ a b : Byte, s.cal.base.toNat ≤ a.toNat → a.toNat ≤ b.toNat →
      b.toNat < s.cal.base.toNat + 2 ^ s.cfg.k → (f a).toNat ≤ (f b).toNat) →
    ∃ u, calRun f s.cfg.k s = some u ∧
      (∃ c : Nat, s.cal.base.toNat ≤ c ∧ c ≤ s.cal.base.toNat + 2 ^ s.cfg.k ∧
        (∀ a : Byte, s.cal.base.toNat ≤ a.toNat → a.toNat < c → (f a).toNat < s.cfg.target.toNat) ∧
        (∀ a : Byte, a.toNat = c → c < s.cal.base.toNat + 2 ^ s.cfg.k →
          s.cfg.target.toNat ≤ (f a).toNat) ∧
        (u.cal.coarse.toNat =
            max (s.cal.base.toNat + 1) (min c (s.cal.base.toNat + 2 ^ s.cfg.k - 1)) ∨
          u.cal.coarse.toNat =
            max (s.cal.base.toNat + 1) (min (c - 1) (s.cal.base.toNat + 2 ^ s.cfg.k - 1)))) ∧
      (∃ best : Byte, s.cal.base.toNat ≤ best.toNat ∧
        best.toNat < s.cal.base.toNat + 2 ^ s.cfg.k ∧
        (∀ a : Byte, s.cal.base.toNat ≤ a.toNat → a.toNat < s.cal.base.toNat + 2 ^ s.cfg.k →
          deviation s.cfg (f best) ≤ deviation s.cfg (f a)) ∧
        u.cal.coarse.toNat ≤ best.toNat + 1 ∧ best.toNat ≤ u.cal.coarse.toNat + 1) ∧
      (u.cal.phase = .neigh →
        ∃ v, calRun f u.candidates u = some v ∧ v.cal.phase = .idle ∧
          s.cal.base.toNat ≤ v.osctrim.toNat ∧ v.osctrim.toNat < s.cal.base.toNat + 2 ^ s.cfg.k ∧
          ∀ a : Byte, s.cal.base.toNat ≤ a.toNat → a.toNat < s.cal.base.toNat + 2 ^ s.cfg.k →
            deviation s.cfg (f v.osctrim) ≤ deviation s.cfg (f a))

/-! ### Line coding and controller -/

/-- R190: the quotient rounded to nearest, a tie going up, less one, clamped to `0 .. OCR_MAX`; `OCR_MAX` for a
rate of 0; and a larger rate never gives a larger value. -/
def Obligations.QuantizeRoundsToNearest : Prop :=
  ∀ c : Cfg,
    (quantize c 0).toNat = 2 ^ c.ocrBits - 1 ∧
    (∀ baud : Nat, 0 < baud → ∃ q : Nat,
      2 * q * baud ≤ 2 * c.timerClock + baud ∧ 2 * c.timerClock + baud < 2 * (q + 1) * baud ∧
      (quantize c baud).toNat = min (q - 1) (2 ^ c.ocrBits - 1)) ∧
    (∀ a b : Nat, 0 < a → a ≤ b → (quantize c b).toNat ≤ (quantize c a).toNat)

/-- R231, R191, R211, R255: SET_LINE_CODING stores the seven bytes and reconfigures; no engine, buffer or gate is
touched. -/
def Obligations.SetLineCodingStoresAndConfigures : Prop :=
  ∀ (s : State) (l : LineCoding), ∃ t : State, exec (.setLineCoding l) s = .next t ∧
    t.lc = l ∧ t.ocr = quantize s.cfg (l.d0.toNat + 256 * l.d1.toNat + 65536 * l.d2.toNat +
      16777216 * l.d3.toNat) ∧
    t.first.toNat = (t.ocr.toNat + 1) + (t.ocr.toNat + 1) / 4 ∧
    t.trace = s.trace ++ (if s.cfg.backend = .hardware then [.periphCfg l] else []) ∧
    t = { s with
      lc := t.lc, ocr := t.ocr, first := t.first, trace := t.trace, answer := some ⟨.ok, []⟩ }

/-- R234: GET_LINE_CODING answers the seven stored bytes and changes nothing. -/
def Obligations.GetLineCodingAnswersStoredBytes : Prop :=
  ∀ s : State, exec .getLineCoding s = .next { s with
    answer := some ⟨.ok, [s.lc.d0, s.lc.d1, s.lc.d2, s.lc.d3, s.lc.stopBits, s.lc.parity,
      s.lc.dataBits]⟩ }

/-- R235: GET_LINE_CODING after SET_LINE_CODING returns exactly the bytes, for every seven bytes, whatever
operations other than RESET, BUS_RESET and SET_LINE_CODING come between. -/
def Obligations.LineCodingReadsBackVerbatim : Prop :=
  ∀ (is : List Instr) (s t u : State) (l : LineCoding), exec (.setLineCoding l) s = .next t →
    (∀ i ∈ is, i ≠ .reset ∧ i ≠ .busReset ∧ ∀ l', i ≠ .setLineCoding l') → runOps is t = some u →
    exec .getLineCoding u = .next { u with
      answer := some ⟨.ok, [l.d0, l.d1, l.d2, l.d3, l.stopBits, l.parity, l.dataBits]⟩ }

/-- R236: SET_CONTROL_LINE_STATE mirrors bit 0 onto `dtr` and does nothing else. -/
def Obligations.ControlLineStateDrivesDtr : Prop :=
  ∀ (s : State) (v : Half), exec (.setControlLineState v) s =
    .next { s with dtr := decide (v.toNat % 2 = 1), answer := some ⟨.ok, []⟩ }

/-- R238, R50: the register map, every register and every bit, and STALL above 0x1C. -/
def Obligations.RegisterMapReads : Prop :=
  ∀ s : State,
    Reads s 0x00 (fun x => x.getLsbD 0 = s.tx.idle ∧ x.getLsbD 1 = s.usbAccept ∧
      x.getLsbD 2 = s.rts ∧ x.getLsbD 3 = s.cts ∧ x.getLsbD 4 = s.dtr ∧
      x.getLsbD 5 = s.zlpPending ∧ (x.getLsbD 6 = true ↔ s.cal.phase ≠ .idle) ∧
      x.getLsbD 7 = (s.ovfOut || s.ovfIn)) ∧
    Reads s 0x01 (fun x => x.getLsbD 0 = s.ovfOut ∧ x.getLsbD 1 = s.ovfIn ∧ x.toNat < 4) ∧
    Reads s 0x02 (fun x => x.toNat = s.waitingIn.length) ∧
    Reads s 0x03 (fun x => x.toNat + s.waitingIn.length = s.cfg.capIn - 1) ∧
    Reads s 0x04 (fun x => x.toNat = s.waitingOut.length) ∧
    Reads s 0x05 (fun x => x.toNat + s.waitingOut.length = s.cfg.capOut - 1) ∧
    Reads s 0x06 (fun x => x = s.rbIn.rd) ∧ Reads s 0x07 (fun x => x = s.rbIn.wr) ∧
    Reads s 0x08 (fun x => x = s.rbOut.rd) ∧ Reads s 0x09 (fun x => x = s.rbOut.wr) ∧
    Reads s 0x0A (fun x => x = s.osctrim) ∧ Reads s 0x0B (fun x => x = s.nv) ∧
    Reads s 0x0C (fun x => (s.cal.phase = .idle → x = 0) ∧ (s.cal.phase = .base → x = 1) ∧
      (s.cal.phase = .splitp → x = 2) ∧ (s.cal.phase = .search → x = 3) ∧
      (s.cal.phase = .neigh → x = 4)) ∧
    Reads s 0x0D (fun x => x.toNat = s.ocr.toNat % 256) ∧
    Reads s 0x0E (fun x => x.toNat = s.ocr.toNat / 256) ∧
    Reads s 0x0F (fun x => x.toNat = s.first.toNat % 256) ∧
    Reads s 0x10 (fun x => x.toNat = s.first.toNat / 256 % 256) ∧
    Reads s 0x11 (fun x => x.toNat = s.first.toNat / 65536) ∧
    Reads s 0x12 (fun x => x = s.lc.d0) ∧ Reads s 0x13 (fun x => x = s.lc.d1) ∧
    Reads s 0x14 (fun x => x = s.lc.d2) ∧ Reads s 0x15 (fun x => x = s.lc.d3) ∧
    Reads s 0x16 (fun x => x = s.lc.stopBits) ∧ Reads s 0x17 (fun x => x = s.lc.parity) ∧
    Reads s 0x18 (fun x => x = s.lc.dataBits) ∧
    Reads s 0x19 (fun x => x.toNat = s.tx.left.toNat) ∧
    Reads s 0x1A (fun x => x.toNat = s.rx.left.toNat) ∧
    Reads s 0x1B (fun x => x = s.rx.shift) ∧
    Reads s 0x1C (fun x => x.getLsbD 0 = s.pinRxd ∧ x.getLsbD 1 = s.cts ∧
      x.getLsbD 2 = s.tx.txd ∧ x.getLsbD 3 = s.rts ∧ x.getLsbD 4 = s.dtr ∧ x.toNat < 32) ∧
    (∀ n : Byte, 0x1C < n.toNat →
      exec (.rdreg n) s = .next { s with answer := some ⟨.stall, []⟩ })

/-! ### The software UART -/

/-- R199: PINS latches the two levels and does nothing else. -/
def Obligations.PinsLatchesLevels : Prop :=
  ∀ (s : State) (p : Byte), exec (.pins p) s = .next { s with
    pinRxd := decide (p.toNat % 2 = 1), cts := decide (p.toNat / 2 % 2 = 1),
    answer := some ⟨.ok, []⟩ }

/-- R193, R194, R192: a POLL that finds the transmitter idle, a byte waiting and clear-to-send not in the way
takes the oldest byte and builds its frame; the line is not driven yet. -/
def Obligations.PollStartsByte : Prop :=
  ∀ s : State, s.cfg.backend = .software → s.BuffersOk → s.GatesOk → s.tx.idle = true →
    s.usedOut ≠ 0 → (s.cfg.swTxCtsGate = false ∨ s.cts = true) →
    ∃ (t : State) (b : Byte), exec .poll s = .next t ∧
      s.waitingOut = b :: t.waitingOut ∧
      t.rbOut = { s.rbOut with rd := t.rbOut.rd } ∧
      t.rbOut.rd.toNat = (s.rbOut.rd.toNat + 1) % s.cfg.capOut ∧
      t.tx.frame.getLsbD 9 = false ∧ t.tx.frame.getLsbD 0 = true ∧
      (∀ i < 8, t.tx.frame.getLsbD (8 - i) = b.getLsbD i) ∧
      t.tx.left = 11 ∧ t.tx.cnt.toNat = s.ocr.toNat + 1 ∧ t.tx.idle = false ∧
      t.tx.txd = s.tx.txd ∧
      t = { s with
        rbOut := t.rbOut, tx := t.tx, usbAccept := t.usbAccept, answer := some ⟨.ok, []⟩ }

/-- R192: a POLL with a byte in flight, nothing to send or the transmitter held by clear-to-send changes
nothing. -/
def Obligations.RedundantPollChangesNothing : Prop :=
  ∀ s : State, s.cfg.backend = .software → s.GatesOk →
    (s.tx.idle = false ∨ s.usedOut = 0 ∨ (s.cfg.swTxCtsGate = true ∧ s.cts = false)) →
    exec .poll s = .next { s with answer := some ⟨.ok, []⟩ }

/-- R200, R196: the transmitter's part of a TICK. -/
def Obligations.TickRunsTransmitter : Prop :=
  ∀ s : State, s.cfg.backend = .software → ∃ t : State, exec .tick s = .next t ∧
    (s.tx.left = 0 → t.tx = s.tx) ∧
    (s.tx.left ≠ 0 → 1 < s.tx.cnt.toNat → t.tx = { s.tx with cnt := s.tx.cnt - 1 }) ∧
    (1 < s.tx.left.toNat → s.tx.cnt = 1 →
      t.tx.txd = (s.tx.frame.getLsbD 9 ^^ s.cfg.invert) ∧
      (∀ i < 9, t.tx.frame.getLsbD (i + 1) = s.tx.frame.getLsbD i) ∧
      t.tx.frame.getLsbD 0 = true ∧
      t.tx.left.toNat = s.tx.left.toNat - 1 ∧ t.tx.cnt.toNat = s.ocr.toNat + 1 ∧
      t.tx.idle = s.tx.idle) ∧
    (s.tx.left = 1 → s.tx.cnt = 1 → t.tx = { s.tx with left := 0, cnt := 0, idle := true })

/-- R200, R204, R205, R208, R209: the receiver's part of a TICK, and what a TICK leaves unchanged. -/
def Obligations.TickRunsReceiver : Prop :=
  ∀ s : State, s.cfg.backend = .software → s.BuffersOk → s.GatesOk →
    ∃ t : State, exec .tick s = .next t ∧
      t = { s with
        tx := t.tx, rx := t.rx, rbIn := t.rbIn, rts := t.rts, answer := some ⟨.ok, []⟩ } ∧
      t.rx.prev = (s.pinRxd ^^ s.cfg.invert) ∧
      (¬ (s.rx.left = 1 ∧ s.rx.cnt = 1) → t.rbIn = s.rbIn ∧ t.rts = s.rts) ∧
      (s.rx.left = 0 → ¬ (s.rx.prev = true ∧ (s.pinRxd ^^ s.cfg.invert) = false) →
        t.rx = { s.rx with prev := t.rx.prev }) ∧
      (s.rx.left = 0 → s.rx.prev = true → (s.pinRxd ^^ s.cfg.invert) = false →
        t.rx = { s.rx with left := 8, cnt := s.first, prev := t.rx.prev }) ∧
      (s.rx.left ≠ 0 → 1 < s.rx.cnt.toNat →
        t.rx = { s.rx with cnt := s.rx.cnt - 1, prev := t.rx.prev }) ∧
      (s.rx.left ≠ 0 → s.rx.cnt = 1 →
        t.rx.shift.getLsbD 7 = (s.pinRxd ^^ s.cfg.invert) ∧
        (∀ i < 7, t.rx.shift.getLsbD i = s.rx.shift.getLsbD (i + 1)) ∧
        t.rx.left.toNat = s.rx.left.toNat - 1 ∧
        t.rx.cnt.toNat = (if s.rx.left = 1 then 0 else s.ocr.toNat + 1)) ∧
      (s.rx.left = 1 → s.rx.cnt = 1 → s.freeIn = 0 → t.rbIn = s.rbIn) ∧
      (s.rx.left = 1 → s.rx.cnt = 1 → s.freeIn ≠ 0 →
        t.waitingIn = s.waitingIn ++ [t.rx.shift] ∧
        t.rbIn.rd = s.rbIn.rd ∧ t.rbIn.wr.toNat = (s.rbIn.wr.toNat + 1) % s.cfg.capIn ∧
        ∀ a, a ≠ s.rbIn.wr.toNat → Memory.read t.rbIn.mem a = Memory.read s.rbIn.mem a)

/-- R195, R310: the transmit schedule. From the load of a byte, whatever other operations fall between (but no
reconfiguration and no RESET), the line after `n` ticks carries the start bit, the data bits lowest first and the
stop bit, each for exactly `T` ticks, and the byte ends with tick `11 T`. -/
def Obligations.TransmitSchedule : Prop :=
  ∀ (is : List Instr) (s t : State) (b : Byte) (T n : Nat),
    s.cfg.backend = .software → T = s.ocr.toNat + 1 →
    s.tx.frame = frame b → s.tx.left = 11 → s.tx.cnt.toNat = T → s.tx.idle = false →
    (∀ i ∈ is, i ≠ .reset ∧ i ≠ .busReset ∧ ∀ l, i ≠ .setLineCoding l) →
    runOps is s = some t → is.count .tick = n → n < 11 * T →
    t.tx.left.toNat = 11 - n / T ∧ t.tx.cnt.toNat = T - n % T ∧ t.tx.idle = false ∧
    (n / T = 0 → t.tx.txd = s.tx.txd) ∧
    (n / T = 1 → t.tx.txd = (false ^^ s.cfg.invert)) ∧
    (2 ≤ n / T → n / T ≤ 9 → t.tx.txd = (b.getLsbD (n / T - 2) ^^ s.cfg.invert)) ∧
    (n / T = 10 → t.tx.txd = (true ^^ s.cfg.invert)) ∧
    (n + 1 = 11 * T → ∃ u, exec .tick t = .next u ∧ u.tx.idle = true ∧ u.tx.left = 0 ∧
      u.tx.cnt = 0 ∧ u.tx.txd = (true ^^ s.cfg.invert))

/-- R204 to R209: an armed receiver whose line falls takes its eight samples `first + j T` ticks after the edge,
whatever the line does between, and the byte is put at the end of IN if there is room. -/
def Obligations.ReceiverSamplesOnSchedule : Prop :=
  ∀ (s t : State) (levels : List Bool) (T : Nat),
    s.cfg.backend = .software → s.BuffersOk → s.TimingOk → s.rx.left = 0 → s.rx.prev = true →
    T = s.ocr.toNat + 1 → levels.length = (T + T / 4) + 7 * T + 1 → levels[0]? = some false →
    runOps (lineOps s.cfg s.cts levels) s = some t →
    t.rx.left = 0 ∧ t.rx.cnt = 0 ∧
    (∀ j < 8, levels[(T + T / 4) + j * T]? = some (t.rx.shift.getLsbD j)) ∧
    t.waitingIn = s.waitingIn ++ (if s.freeIn = 0 then [] else [t.rx.shift])

/-- R212: the loopback property. From the reset state of every software configuration, at every compare value, every
byte written by the host and looped back from the transmit to the receive pin comes back as the one byte of the
next report. -/
def Obligations.LoopbackReturnsEveryByte : Prop :=
  ∀ (c : Cfg) (nv b : Byte) (ocr : BitVec 16), c.backend = .software →
    ∃ s t u : State,
      runOps [.usbOut [b], .poll] { State.resetOf c nv with ocr := ocr, first := firstOffset ocr } = some s ∧
      lticks (11 * (ocr.toNat + 1) + 1) s = some t ∧ t.usedIn = 1 ∧ t.tx.idle = true ∧
      exec .usbInReady t = .next u ∧ u.answer = some ⟨.ok, [b]⟩

/-! ### The hardware backend -/

/-- R251, R252: POLL_HW's receive step. A good byte joins IN, or is lost with `ovf_in` set when there is no room;
a byte with an error flag is discarded silently. -/
def Obligations.PollHwReceives : Prop :=
  ∀ (s : State) (flags rxdata : Byte), s.cfg.backend = .hardware → s.BuffersOk →
    ∃ t : State, exec (.pollHw flags rxdata) s = .next t ∧
      (flags.getLsbD 0 = true → flags.getLsbD 1 = false → s.freeIn ≠ 0 →
        t.waitingIn = s.waitingIn ++ [rxdata] ∧ t.ovfIn = s.ovfIn ∧ t.rbIn.rd = s.rbIn.rd ∧
        t.rbIn.wr.toNat = (s.rbIn.wr.toNat + 1) % s.cfg.capIn ∧
        ∀ a, a ≠ s.rbIn.wr.toNat → Memory.read t.rbIn.mem a = Memory.read s.rbIn.mem a) ∧
      (flags.getLsbD 0 = true → flags.getLsbD 1 = false → s.freeIn = 0 →
        t.rbIn = s.rbIn ∧ t.ovfIn = true) ∧
      (flags.getLsbD 0 = false ∨ flags.getLsbD 1 = true → t.rbIn = s.rbIn ∧ t.ovfIn = s.ovfIn)

/-- R251, R253: POLL_HW's transmit step, and what POLL_HW leaves unchanged: the software engine's state above
all. -/
def Obligations.PollHwTransmits : Prop :=
  ∀ (s : State) (flags rxdata : Byte), s.cfg.backend = .hardware → s.BuffersOk →
    ∃ t : State, exec (.pollHw flags rxdata) s = .next t ∧
      (flags.getLsbD 2 = true → s.cts = true → s.usedOut ≠ 0 →
        ∃ b, s.waitingOut = b :: t.waitingOut ∧ t.answer = some ⟨.ok, [b]⟩ ∧
          t.trace = s.trace ++ [.periphTx b] ∧
          t.rbOut.rd.toNat = (s.rbOut.rd.toNat + 1) % s.cfg.capOut) ∧
      (flags.getLsbD 2 = false ∨ s.cts = false ∨ s.usedOut = 0 →
        t.rbOut = s.rbOut ∧ t.answer = some ⟨.ok, []⟩ ∧ t.trace = s.trace) ∧
      t = { s with
        rbIn := t.rbIn, rbOut := { s.rbOut with rd := t.rbOut.rd }, usbAccept := t.usbAccept,
        rts := t.rts, ovfIn := t.ovfIn, trace := t.trace, answer := t.answer }

/-- R254, R255: every operation but POLL, POLL_HW and TICK behaves alike under both backends. The events it traces
are the same but for `periph_cfg`, of which RESET, BUS_RESET and SET_LINE_CODING under the hardware backend trace
exactly one, with the line coding then in force, and no other operation and no software backend traces any. -/
def Obligations.BackendsAgreeElsewhere : Prop :=
  ∀ (i : Instr) (s s' : State), s' = { s with cfg := s'.cfg } →
    s'.cfg.toParams = { s.cfg.toParams with backend := s'.cfg.backend } →
    i ≠ .poll → i ≠ .tick → (∀ flags rxdata, i ≠ .pollHw flags rxdata) →
    ∃ t t' : State, exec i s = .next t ∧ exec i s' = .next t' ∧
      t' = { t with cfg := s'.cfg, trace := t'.trace } ∧
      (∃ events events' : List Event,
        t.trace = s.trace ++ events ∧ t'.trace = s.trace ++ events' ∧
        events.filter (fun e => !e.isPeriphCfg) = events'.filter (fun e => !e.isPeriphCfg) ∧
        events.filter Event.isPeriphCfg =
          (if i.configures = true ∧ s.cfg.backend = .hardware then [.periphCfg t.lc] else []) ∧
        events'.filter Event.isPeriphCfg =
          (if i.configures = true ∧ s'.cfg.backend = .hardware then [.periphCfg t.lc] else [])) ∧
      (i ≠ .reset → i ≠ .busReset → (∀ l, i ≠ .setLineCoding l) → t'.trace = t.trace)

/-! ### Faults -/

/-- R263, R45: the fault bits are sticky until RESET, and each is set only by the overflow it records. -/
def Obligations.FaultBitsAreSticky : Prop :=
  ∀ (i : Instr) (s t : State), exec i s = .next t →
    (i = .reset → t.ovfOut = false ∧ t.ovfIn = false) ∧
    (i ≠ .reset → (s.ovfOut = true → t.ovfOut = true) ∧ (s.ovfIn = true → t.ovfIn = true)) ∧
    (s.ovfOut = false → t.ovfOut = true →
      ∃ data, i = .usbOut data ∧ s.usbAccept = true ∧ s.freeOut < data.length) ∧
    (s.ovfIn = false → t.ovfIn = true →
      ∃ flags rxdata, i = .pollHw flags rxdata ∧ s.cfg.backend = .hardware ∧
        flags.getLsbD 0 = true ∧ flags.getLsbD 1 = false ∧ s.freeIn = 0)

/-- R263: a fault bit gates nothing. Two states that differ only in the fault bits go on alike, but for the two
registers that show them. -/
def Obligations.FaultBitsGateNothing : Prop :=
  ∀ (i : Instr) (s : State) (a b : Bool), (∀ n, i = .rdreg n → 2 ≤ n.toNat) →
    ∃ t t' : State, exec i s = .next t ∧
      exec i { s with ovfOut := a, ovfIn := b } = .next t' ∧
      t' = { t with ovfOut := t'.ovfOut, ovfIn := t'.ovfIn }
end

