-- ==== Sys2Proof/Laws/Memory.lean ====
section
/-! SUPPORT. The basic laws of an address space: reading after a write, and that a write keeps the canonical
form and the bound of its space. -/

namespace Sys2Proof.Machine

@[simp] theorem Memory.read_nil (a : Nat) : Memory.read [] a = Memory.blank := rfl

/-- An address below every listed one reads as unlisted. -/
theorem Memory.read_of_lt (m : Memory) (a : Nat) (h : ∀ c ∈ m, a < c.1) : Memory.read m a = Memory.blank := by
  induction m with
  | nil => rfl
  | cons c rest ih =>
    have hc := h c (by simp)
    have : c.1 ≠ a := by omega
    simp only [Memory.read, this, if_false]
    exact ih fun d hd => h d (by simp [hd])

/-- What a write lists: the old cells and the new one. -/
theorem Memory.mem_write (m : Memory) (a : Nat) (v : Byte) (c : Host.Cell) (h : c ∈ Memory.write m a v) :
    c ∈ m ∨ (c = (a, v) ∧ v ≠ Memory.blank) := by
  induction m with
  | nil =>
    by_cases hv : v = Memory.blank <;> simp_all [Memory.write]
  | cons d rest ih =>
    obtain ⟨k, x⟩ := d
    simp only [Memory.write] at h
    split at h
    · rcases List.mem_cons.1 h with h | h
      · simp [h]
      · rcases ih h with h | h <;> simp [h]
    · split at h
      · split at h
        · simp [h]
        · rcases List.mem_cons.1 h with h | h <;> simp_all
      · split at h
        · exact .inl h
        · rcases List.mem_cons.1 h with h | h <;> simp_all

/-- A write keeps the canonical form. -/
theorem Memory.write_wf (m : Memory) (a : Nat) (v : Byte) (h : Memory.wf m) :
    Memory.wf (Memory.write m a v) := by
  refine ⟨?_, fun c hc => ?_⟩
  · have hs := h.1
    clear h
    induction m with
    | nil => by_cases hv : v = Memory.blank <;> simp [Memory.write, hv]
    | cons d rest ih =>
      obtain ⟨k, x⟩ := d
      rw [List.pairwise_cons] at hs
      simp only [Memory.write]
      split
      · rename_i hk
        refine List.pairwise_cons.2 ⟨fun c hc => ?_, ih hs.2⟩
        rcases Memory.mem_write _ _ _ _ hc with h | h
        · exact hs.1 c h
        · simpa [h.1] using hk
      · split
        · rename_i hk
          split
          · exact hs.2
          · exact List.pairwise_cons.2 ⟨fun c hc => by simpa [← hk] using hs.1 c hc, hs.2⟩
        · split
          · exact List.pairwise_cons.2 hs
          · refine List.pairwise_cons.2 ⟨fun c hc => ?_, List.pairwise_cons.2 hs⟩
            rcases List.mem_cons.1 hc with h | h
            · simp [h]; omega
            · have := hs.1 c h
              simp at this ⊢; omega
  · rcases Memory.mem_write _ _ _ _ hc with h' | h'
    · exact h.2 c h'
    · simpa [h'.1] using h'.2

/-- A write inside a space stays inside it. -/
theorem Memory.write_within (m : Memory) (a n : Nat) (v : Byte) (h : Memory.within m n) (ha : a < n) :
    Memory.within (Memory.write m a v) n := fun c hc => by
  rcases Memory.mem_write _ _ _ _ hc with h' | h'
  · exact h c h'
  · simpa [h'.1] using ha

/-- Reading after a write: the written byte at its address, every other address as before. -/
theorem Memory.read_write (m : Memory) (a b : Nat) (v : Byte) (h : Memory.wf m) :
    Memory.read (Memory.write m a v) b = if b = a then v else Memory.read m b := by
  have hs := h.1
  clear h
  induction m with
  | nil =>
    by_cases hv : v = Memory.blank <;> by_cases hb : a = b <;>
      simp [Memory.write, Memory.read, hv, hb, eq_comm]
  | cons d rest ih =>
    obtain ⟨k, x⟩ := d
    rw [List.pairwise_cons] at hs
    simp only [Memory.write]
    split
    · rename_i hk
      simp only [Memory.read, ih hs.2]
      split_ifs <;> simp_all
    · split
      · rename_i hk
        subst hk
        split
        · rename_i hv
          by_cases hb : b = k
          · subst hb
            rw [Memory.read_of_lt rest b (fun c hc => hs.1 c hc)]
            simp [hv]
          · simp [Memory.read, hb, eq_comm]
        · by_cases hb : b = k <;> simp [Memory.read, hb, eq_comm]
      · rename_i h1 h2
        split
        · rename_i hv
          by_cases hb : b = a
          · subst hb
            rw [Memory.read_of_lt]
            · simp [hv]
            · intro c hc
              rcases List.mem_cons.1 hc with h | h
              · simp [h]; omega
              · have := hs.1 c h
                simp at this; omega
          · simp [hb]
        · by_cases hb : b = a
          · simp [Memory.read, hb]
          · have hab : a ≠ b := fun h => hb h.symm
            simp [Memory.read, hb, hab]

end Sys2Proof.Machine
end

