-- ==== Sys2Proof/Laws/Ring.lean ====
section
/-! SUPPORT. The ring primitives: what the masked indices and the occupancy are, and everything an enqueue, a
dequeue and the copy into the extension region can do (41_ring_buffers.md R151 to R153, R165). -/

namespace Sys2Proof

/-! ### Capacities -/

theorem Cfg.capIn_mem (c : Cfg) : c.capIn ∈ capacities := c.valid.1
theorem Cfg.capOut_mem (c : Cfg) : c.capOut ∈ capacities := c.valid.2.1

end Sys2Proof

namespace Sys2Proof.Machine

/-- A capacity is one of eight powers of two. -/
theorem capacity_cases {cap : Nat} (h : cap ∈ capacities) :
    cap = 2 ∨ cap = 4 ∨ cap = 8 ∨ cap = 16 ∨ cap = 32 ∨ cap = 64 ∨ cap = 128 ∨ cap = 256 := by
  simpa [capacities] using h

theorem capacity_two_le {cap : Nat} (h : cap ∈ capacities) : 2 ≤ cap := by
  have := capacity_cases h; omega

theorem capacity_le {cap : Nat} (h : cap ∈ capacities) : cap ≤ 256 := by
  have := capacity_cases h; omega

theorem capacity_dvd {cap : Nat} (h : cap ∈ capacities) : cap ∣ 256 := by
  rcases capacity_cases h with h | h | h | h | h | h | h | h <;> subst h <;> decide

/-! ### Indices and occupancy -/

theorem slot_lt {cap : Nat} (h : cap ∈ capacities) (i : BitVec 8) : slot cap i < cap :=
  Nat.mod_lt _ (by have := capacity_two_le h; omega)

/-- A masked index is its own slot. -/
theorem slot_of_lt {cap : Nat} {i : BitVec 8} (h : i.toNat < cap) : slot cap i = i.toNat :=
  Nat.mod_eq_of_lt h

/-- The index after an advance (R167). -/
theorem advance_toNat {cap : Nat} (h : cap ∈ capacities) (i : BitVec 8) (n : Nat) :
    (advance cap i n).toNat = (i.toNat + n) % cap := by
  have h1 : (i.toNat + n) % cap < cap := Nat.mod_lt _ (by have := capacity_two_le h; omega)
  have h2 := capacity_le h
  simp only [advance, BitVec.toNat_ofNat]
  omega

theorem advance_lt {cap : Nat} (h : cap ∈ capacities) (i : BitVec 8) (n : Nat) :
    (advance cap i n).toNat < cap := by
  rw [advance_toNat h]
  exact Nat.mod_lt _ (by have := capacity_two_le h; omega)

/-- The slot after an advance, from the slot before it. -/
theorem slot_advance {cap : Nat} (h : cap ∈ capacities) (i : BitVec 8) (n : Nat) :
    slot cap (advance cap i n) = (slot cap i + n) % cap := by
  rw [slot_of_lt (advance_lt h i n), advance_toNat h, slot, Nat.mod_add_mod]

/-- Occupancy from the slots (R151). -/
theorem Ring.used_eq {cap : Nat} (h : cap ∈ capacities) (r : Ring) :
    r.used cap = (slot cap r.wr + cap - slot cap r.rd) % cap := by
  have := r.wr.isLt
  have := r.rd.isLt
  rcases capacity_cases h with h | h | h | h | h | h | h | h <;> subst h <;>
    simp only [Ring.used, slot, BitVec.toNat_sub] <;> omega

theorem Ring.used_lt {cap : Nat} (h : cap ∈ capacities) (r : Ring) : r.used cap < cap :=
  Nat.mod_lt _ (by have := capacity_two_le h; omega)

/-! ### Enqueue and dequeue -/

/-- `rb_enqueue` rejects exactly when there is no free slot (R152). -/
theorem Ring.enqueue_eq_none {r : Ring} {cap : Nat} {b : Byte} :
    r.enqueue cap b = none ↔ r.free cap = 0 := by
  simp [Ring.enqueue]

/-- All an accepted `rb_enqueue` does (R152). -/
theorem Ring.enqueue_eq_some {r r' : Ring} {cap : Nat} {b : Byte} :
    r.enqueue cap b = some r' ↔ r.free cap ≠ 0 ∧
      r' = ⟨Memory.write r.mem (slot cap r.wr) b, r.rd, advance cap r.wr 1⟩ := by
  simp [Ring.enqueue, eq_comm]

/-- `rb_dequeue` answers `empty` exactly when nothing is buffered (R153). -/
theorem Ring.dequeue_eq_none {r : Ring} {cap : Nat} : r.dequeue cap = none ↔ r.used cap = 0 := by
  simp [Ring.dequeue]

/-- All a successful `rb_dequeue` does (R153). -/
theorem Ring.dequeue_eq_some {r r' : Ring} {cap : Nat} {b : Byte} :
    r.dequeue cap = some (b, r') ↔ r.used cap ≠ 0 ∧
      b = Memory.read r.mem (slot cap r.rd) ∧ r' = ⟨r.mem, advance cap r.rd 1, r.wr⟩ := by
  simp [Ring.dequeue, eq_comm]

/-- An enqueue keeps the canonical form and the bound of its space (R60, R152). -/
theorem Ring.enqueue_wf {r r' : Ring} {cap size : Nat} {b : Byte} (hc : cap ∈ capacities) (hs : cap ≤ size)
    (h : r.enqueue cap b = some r') (hm : Memory.wf r.mem) (hw : Memory.within r.mem size) :
    Memory.wf r'.mem ∧ Memory.within r'.mem size := by
  obtain ⟨-, rfl⟩ := Ring.enqueue_eq_some.1 h
  exact ⟨Memory.write_wf _ _ _ hm,
    Memory.write_within _ _ _ _ hw (Nat.lt_of_lt_of_le (slot_lt hc r.wr) hs)⟩

/-- A dequeue leaves the cells alone (R153). -/
theorem Ring.dequeue_mem {r r' : Ring} {cap : Nat} {b : Byte} (h : r.dequeue cap = some (b, r')) :
    r'.mem = r.mem := by
  obtain ⟨-, -, rfl⟩ := Ring.dequeue_eq_some.1 h
  rfl

/-! ### The extension region -/

/-- Copying the first `n ≤ cap` cells behind the store (R165): canonical form, bound and reads. -/
theorem copyTail_spec (m : Memory) (cap n : Nat) (hm : Memory.wf m) (hn : n ≤ cap) :
    let m' := (List.range n).foldl (fun m j => Memory.write m (cap + j) (Memory.read m j)) m
    Memory.wf m' ∧
    (∀ size, Memory.within m size → cap + n ≤ size → Memory.within m' size) ∧
    ∀ a, Memory.read m' a =
      if cap ≤ a ∧ a < cap + n then Memory.read m (a - cap) else Memory.read m a := by
  induction n with
  | zero => exact ⟨hm, fun _ h _ => h, fun a => by simp⟩
  | succ n ih =>
    obtain ⟨hw, hb, hr⟩ := ih (by omega)
    simp only [List.range_succ, List.foldl_append, List.foldl_cons, List.foldl_nil]
    refine ⟨Memory.write_wf _ _ _ hw, fun size hs hsz =>
      Memory.write_within _ _ _ _ (hb size hs (by omega)) (by omega), fun a => ?_⟩
    rw [Memory.read_write _ _ _ _ hw, hr, hr]
    by_cases h1 : a = cap + n
    · subst h1
      rw [if_pos rfl, if_neg (by omega), if_pos (by omega)]
      congr 1
      omega
    · rw [if_neg h1]
      by_cases h2 : cap ≤ a ∧ a < cap + n
      · rw [if_pos h2, if_pos (by omega)]
      · rw [if_neg h2, if_neg (by omega)]

/-- `make_contiguous` leaves the indices alone (R165). -/
@[simp] theorem Ring.makeContiguous_rd (r : Ring) (cap n : Nat) : (r.makeContiguous cap n).rd = r.rd := rfl
@[simp] theorem Ring.makeContiguous_wr (r : Ring) (cap n : Nat) : (r.makeContiguous cap n).wr = r.wr := rfl

end Sys2Proof.Machine
end

