-- ==== Sys2Proof/Laws/State.lean ====
section
/-! SUPPORT. One lemma per field per update of State, true by rfl: no later proof unfolds a record update. -/

namespace Sys2Proof.Machine

variable (s : State)

/-! ### reply -/

section
variable (st : Status) (bytes : List Byte)
@[simp] theorem State.reply_cfg : (s.reply st bytes).cfg = s.cfg := rfl
@[simp] theorem State.reply_port : (s.reply st bytes).port = s.port := rfl
@[simp] theorem State.reply_answer : (s.reply st bytes).answer = some ⟨st, bytes⟩ := rfl
@[simp] theorem State.reply_trace : (s.reply st bytes).trace = s.trace := rfl
@[simp] theorem State.reply_rbIn : (s.reply st bytes).rbIn = s.rbIn := rfl
@[simp] theorem State.reply_rbOut : (s.reply st bytes).rbOut = s.rbOut := rfl
@[simp] theorem State.reply_usbAccept : (s.reply st bytes).usbAccept = s.usbAccept := rfl
@[simp] theorem State.reply_rts : (s.reply st bytes).rts = s.rts := rfl
@[simp] theorem State.reply_cts : (s.reply st bytes).cts = s.cts := rfl
@[simp] theorem State.reply_dtr : (s.reply st bytes).dtr = s.dtr := rfl
@[simp] theorem State.reply_zlpPending : (s.reply st bytes).zlpPending = s.zlpPending := rfl
@[simp] theorem State.reply_lc : (s.reply st bytes).lc = s.lc := rfl
@[simp] theorem State.reply_ocr : (s.reply st bytes).ocr = s.ocr := rfl
@[simp] theorem State.reply_first : (s.reply st bytes).first = s.first := rfl
@[simp] theorem State.reply_tx : (s.reply st bytes).tx = s.tx := rfl
@[simp] theorem State.reply_rx : (s.reply st bytes).rx = s.rx := rfl
@[simp] theorem State.reply_pinRxd : (s.reply st bytes).pinRxd = s.pinRxd := rfl
@[simp] theorem State.reply_osctrim : (s.reply st bytes).osctrim = s.osctrim := rfl
@[simp] theorem State.reply_nv : (s.reply st bytes).nv = s.nv := rfl
@[simp] theorem State.reply_cal : (s.reply st bytes).cal = s.cal := rfl
@[simp] theorem State.reply_ovfOut : (s.reply st bytes).ovfOut = s.ovfOut := rfl
@[simp] theorem State.reply_ovfIn : (s.reply st bytes).ovfIn = s.ovfIn := rfl
end

/-! ### emit -/

section
variable (e : Event)
@[simp] theorem State.emit_cfg : (s.emit e).cfg = s.cfg := rfl
@[simp] theorem State.emit_port : (s.emit e).port = s.port := rfl
@[simp] theorem State.emit_answer : (s.emit e).answer = s.answer := rfl
@[simp] theorem State.emit_trace : (s.emit e).trace = s.trace ++ [e] := rfl
@[simp] theorem State.emit_rbIn : (s.emit e).rbIn = s.rbIn := rfl
@[simp] theorem State.emit_rbOut : (s.emit e).rbOut = s.rbOut := rfl
@[simp] theorem State.emit_usbAccept : (s.emit e).usbAccept = s.usbAccept := rfl
@[simp] theorem State.emit_rts : (s.emit e).rts = s.rts := rfl
@[simp] theorem State.emit_cts : (s.emit e).cts = s.cts := rfl
@[simp] theorem State.emit_dtr : (s.emit e).dtr = s.dtr := rfl
@[simp] theorem State.emit_zlpPending : (s.emit e).zlpPending = s.zlpPending := rfl
@[simp] theorem State.emit_lc : (s.emit e).lc = s.lc := rfl
@[simp] theorem State.emit_ocr : (s.emit e).ocr = s.ocr := rfl
@[simp] theorem State.emit_first : (s.emit e).first = s.first := rfl
@[simp] theorem State.emit_tx : (s.emit e).tx = s.tx := rfl
@[simp] theorem State.emit_rx : (s.emit e).rx = s.rx := rfl
@[simp] theorem State.emit_pinRxd : (s.emit e).pinRxd = s.pinRxd := rfl
@[simp] theorem State.emit_osctrim : (s.emit e).osctrim = s.osctrim := rfl
@[simp] theorem State.emit_nv : (s.emit e).nv = s.nv := rfl
@[simp] theorem State.emit_cal : (s.emit e).cal = s.cal := rfl
@[simp] theorem State.emit_ovfOut : (s.emit e).ovfOut = s.ovfOut := rfl
@[simp] theorem State.emit_ovfIn : (s.emit e).ovfIn = s.ovfIn := rfl
end

/-! ### setIn -/

section
variable (r : Ring)
@[simp] theorem State.setIn_cfg : (s.setIn r).cfg = s.cfg := rfl
@[simp] theorem State.setIn_port : (s.setIn r).port = s.port := rfl
@[simp] theorem State.setIn_answer : (s.setIn r).answer = s.answer := rfl
@[simp] theorem State.setIn_trace : (s.setIn r).trace = s.trace := rfl
@[simp] theorem State.setIn_rbIn : (s.setIn r).rbIn = r := rfl
@[simp] theorem State.setIn_rbOut : (s.setIn r).rbOut = s.rbOut := rfl
@[simp] theorem State.setIn_usbAccept : (s.setIn r).usbAccept = s.usbAccept := rfl
@[simp] theorem State.setIn_rts : (s.setIn r).rts = s.rts := rfl
@[simp] theorem State.setIn_cts : (s.setIn r).cts = s.cts := rfl
@[simp] theorem State.setIn_dtr : (s.setIn r).dtr = s.dtr := rfl
@[simp] theorem State.setIn_zlpPending : (s.setIn r).zlpPending = s.zlpPending := rfl
@[simp] theorem State.setIn_lc : (s.setIn r).lc = s.lc := rfl
@[simp] theorem State.setIn_ocr : (s.setIn r).ocr = s.ocr := rfl
@[simp] theorem State.setIn_first : (s.setIn r).first = s.first := rfl
@[simp] theorem State.setIn_tx : (s.setIn r).tx = s.tx := rfl
@[simp] theorem State.setIn_rx : (s.setIn r).rx = s.rx := rfl
@[simp] theorem State.setIn_pinRxd : (s.setIn r).pinRxd = s.pinRxd := rfl
@[simp] theorem State.setIn_osctrim : (s.setIn r).osctrim = s.osctrim := rfl
@[simp] theorem State.setIn_nv : (s.setIn r).nv = s.nv := rfl
@[simp] theorem State.setIn_cal : (s.setIn r).cal = s.cal := rfl
@[simp] theorem State.setIn_ovfOut : (s.setIn r).ovfOut = s.ovfOut := rfl
@[simp] theorem State.setIn_ovfIn : (s.setIn r).ovfIn = s.ovfIn := rfl
end

/-! ### setOut -/

section
variable (r : Ring)
@[simp] theorem State.setOut_cfg : (s.setOut r).cfg = s.cfg := rfl
@[simp] theorem State.setOut_port : (s.setOut r).port = s.port := rfl
@[simp] theorem State.setOut_answer : (s.setOut r).answer = s.answer := rfl
@[simp] theorem State.setOut_trace : (s.setOut r).trace = s.trace := rfl
@[simp] theorem State.setOut_rbIn : (s.setOut r).rbIn = s.rbIn := rfl
@[simp] theorem State.setOut_rbOut : (s.setOut r).rbOut = r := rfl
@[simp] theorem State.setOut_usbAccept : (s.setOut r).usbAccept = s.usbAccept := rfl
@[simp] theorem State.setOut_rts : (s.setOut r).rts = s.rts := rfl
@[simp] theorem State.setOut_cts : (s.setOut r).cts = s.cts := rfl
@[simp] theorem State.setOut_dtr : (s.setOut r).dtr = s.dtr := rfl
@[simp] theorem State.setOut_zlpPending : (s.setOut r).zlpPending = s.zlpPending := rfl
@[simp] theorem State.setOut_lc : (s.setOut r).lc = s.lc := rfl
@[simp] theorem State.setOut_ocr : (s.setOut r).ocr = s.ocr := rfl
@[simp] theorem State.setOut_first : (s.setOut r).first = s.first := rfl
@[simp] theorem State.setOut_tx : (s.setOut r).tx = s.tx := rfl
@[simp] theorem State.setOut_rx : (s.setOut r).rx = s.rx := rfl
@[simp] theorem State.setOut_pinRxd : (s.setOut r).pinRxd = s.pinRxd := rfl
@[simp] theorem State.setOut_osctrim : (s.setOut r).osctrim = s.osctrim := rfl
@[simp] theorem State.setOut_nv : (s.setOut r).nv = s.nv := rfl
@[simp] theorem State.setOut_cal : (s.setOut r).cal = s.cal := rfl
@[simp] theorem State.setOut_ovfOut : (s.setOut r).ovfOut = s.ovfOut := rfl
@[simp] theorem State.setOut_ovfIn : (s.setOut r).ovfIn = s.ovfIn := rfl
end

/-! ### setGates -/

section
variable (a b : Bool)
@[simp] theorem State.setGates_cfg : (s.setGates a b).cfg = s.cfg := rfl
@[simp] theorem State.setGates_port : (s.setGates a b).port = s.port := rfl
@[simp] theorem State.setGates_answer : (s.setGates a b).answer = s.answer := rfl
@[simp] theorem State.setGates_trace : (s.setGates a b).trace = s.trace := rfl
@[simp] theorem State.setGates_rbIn : (s.setGates a b).rbIn = s.rbIn := rfl
@[simp] theorem State.setGates_rbOut : (s.setGates a b).rbOut = s.rbOut := rfl
@[simp] theorem State.setGates_usbAccept : (s.setGates a b).usbAccept = a := rfl
@[simp] theorem State.setGates_rts : (s.setGates a b).rts = b := rfl
@[simp] theorem State.setGates_cts : (s.setGates a b).cts = s.cts := rfl
@[simp] theorem State.setGates_dtr : (s.setGates a b).dtr = s.dtr := rfl
@[simp] theorem State.setGates_zlpPending : (s.setGates a b).zlpPending = s.zlpPending := rfl
@[simp] theorem State.setGates_lc : (s.setGates a b).lc = s.lc := rfl
@[simp] theorem State.setGates_ocr : (s.setGates a b).ocr = s.ocr := rfl
@[simp] theorem State.setGates_first : (s.setGates a b).first = s.first := rfl
@[simp] theorem State.setGates_tx : (s.setGates a b).tx = s.tx := rfl
@[simp] theorem State.setGates_rx : (s.setGates a b).rx = s.rx := rfl
@[simp] theorem State.setGates_pinRxd : (s.setGates a b).pinRxd = s.pinRxd := rfl
@[simp] theorem State.setGates_osctrim : (s.setGates a b).osctrim = s.osctrim := rfl
@[simp] theorem State.setGates_nv : (s.setGates a b).nv = s.nv := rfl
@[simp] theorem State.setGates_cal : (s.setGates a b).cal = s.cal := rfl
@[simp] theorem State.setGates_ovfOut : (s.setGates a b).ovfOut = s.ovfOut := rfl
@[simp] theorem State.setGates_ovfIn : (s.setGates a b).ovfIn = s.ovfIn := rfl
end

/-! ### setZlp -/

section
variable (z : Bool)
@[simp] theorem State.setZlp_cfg : (s.setZlp z).cfg = s.cfg := rfl
@[simp] theorem State.setZlp_port : (s.setZlp z).port = s.port := rfl
@[simp] theorem State.setZlp_answer : (s.setZlp z).answer = s.answer := rfl
@[simp] theorem State.setZlp_trace : (s.setZlp z).trace = s.trace := rfl
@[simp] theorem State.setZlp_rbIn : (s.setZlp z).rbIn = s.rbIn := rfl
@[simp] theorem State.setZlp_rbOut : (s.setZlp z).rbOut = s.rbOut := rfl
@[simp] theorem State.setZlp_usbAccept : (s.setZlp z).usbAccept = s.usbAccept := rfl
@[simp] theorem State.setZlp_rts : (s.setZlp z).rts = s.rts := rfl
@[simp] theorem State.setZlp_cts : (s.setZlp z).cts = s.cts := rfl
@[simp] theorem State.setZlp_dtr : (s.setZlp z).dtr = s.dtr := rfl
@[simp] theorem State.setZlp_zlpPending : (s.setZlp z).zlpPending = z := rfl
@[simp] theorem State.setZlp_lc : (s.setZlp z).lc = s.lc := rfl
@[simp] theorem State.setZlp_ocr : (s.setZlp z).ocr = s.ocr := rfl
@[simp] theorem State.setZlp_first : (s.setZlp z).first = s.first := rfl
@[simp] theorem State.setZlp_tx : (s.setZlp z).tx = s.tx := rfl
@[simp] theorem State.setZlp_rx : (s.setZlp z).rx = s.rx := rfl
@[simp] theorem State.setZlp_pinRxd : (s.setZlp z).pinRxd = s.pinRxd := rfl
@[simp] theorem State.setZlp_osctrim : (s.setZlp z).osctrim = s.osctrim := rfl
@[simp] theorem State.setZlp_nv : (s.setZlp z).nv = s.nv := rfl
@[simp] theorem State.setZlp_cal : (s.setZlp z).cal = s.cal := rfl
@[simp] theorem State.setZlp_ovfOut : (s.setZlp z).ovfOut = s.ovfOut := rfl
@[simp] theorem State.setZlp_ovfIn : (s.setZlp z).ovfIn = s.ovfIn := rfl
end

/-! ### setPins -/

section
variable (a b : Bool)
@[simp] theorem State.setPins_cfg : (s.setPins a b).cfg = s.cfg := rfl
@[simp] theorem State.setPins_port : (s.setPins a b).port = s.port := rfl
@[simp] theorem State.setPins_answer : (s.setPins a b).answer = s.answer := rfl
@[simp] theorem State.setPins_trace : (s.setPins a b).trace = s.trace := rfl
@[simp] theorem State.setPins_rbIn : (s.setPins a b).rbIn = s.rbIn := rfl
@[simp] theorem State.setPins_rbOut : (s.setPins a b).rbOut = s.rbOut := rfl
@[simp] theorem State.setPins_usbAccept : (s.setPins a b).usbAccept = s.usbAccept := rfl
@[simp] theorem State.setPins_rts : (s.setPins a b).rts = s.rts := rfl
@[simp] theorem State.setPins_cts : (s.setPins a b).cts = b := rfl
@[simp] theorem State.setPins_dtr : (s.setPins a b).dtr = s.dtr := rfl
@[simp] theorem State.setPins_zlpPending : (s.setPins a b).zlpPending = s.zlpPending := rfl
@[simp] theorem State.setPins_lc : (s.setPins a b).lc = s.lc := rfl
@[simp] theorem State.setPins_ocr : (s.setPins a b).ocr = s.ocr := rfl
@[simp] theorem State.setPins_first : (s.setPins a b).first = s.first := rfl
@[simp] theorem State.setPins_tx : (s.setPins a b).tx = s.tx := rfl
@[simp] theorem State.setPins_rx : (s.setPins a b).rx = s.rx := rfl
@[simp] theorem State.setPins_pinRxd : (s.setPins a b).pinRxd = a := rfl
@[simp] theorem State.setPins_osctrim : (s.setPins a b).osctrim = s.osctrim := rfl
@[simp] theorem State.setPins_nv : (s.setPins a b).nv = s.nv := rfl
@[simp] theorem State.setPins_cal : (s.setPins a b).cal = s.cal := rfl
@[simp] theorem State.setPins_ovfOut : (s.setPins a b).ovfOut = s.ovfOut := rfl
@[simp] theorem State.setPins_ovfIn : (s.setPins a b).ovfIn = s.ovfIn := rfl
end

/-! ### setDtr -/

section
variable (d : Bool)
@[simp] theorem State.setDtr_cfg : (s.setDtr d).cfg = s.cfg := rfl
@[simp] theorem State.setDtr_port : (s.setDtr d).port = s.port := rfl
@[simp] theorem State.setDtr_answer : (s.setDtr d).answer = s.answer := rfl
@[simp] theorem State.setDtr_trace : (s.setDtr d).trace = s.trace := rfl
@[simp] theorem State.setDtr_rbIn : (s.setDtr d).rbIn = s.rbIn := rfl
@[simp] theorem State.setDtr_rbOut : (s.setDtr d).rbOut = s.rbOut := rfl
@[simp] theorem State.setDtr_usbAccept : (s.setDtr d).usbAccept = s.usbAccept := rfl
@[simp] theorem State.setDtr_rts : (s.setDtr d).rts = s.rts := rfl
@[simp] theorem State.setDtr_cts : (s.setDtr d).cts = s.cts := rfl
@[simp] theorem State.setDtr_dtr : (s.setDtr d).dtr = d := rfl
@[simp] theorem State.setDtr_zlpPending : (s.setDtr d).zlpPending = s.zlpPending := rfl
@[simp] theorem State.setDtr_lc : (s.setDtr d).lc = s.lc := rfl
@[simp] theorem State.setDtr_ocr : (s.setDtr d).ocr = s.ocr := rfl
@[simp] theorem State.setDtr_first : (s.setDtr d).first = s.first := rfl
@[simp] theorem State.setDtr_tx : (s.setDtr d).tx = s.tx := rfl
@[simp] theorem State.setDtr_rx : (s.setDtr d).rx = s.rx := rfl
@[simp] theorem State.setDtr_pinRxd : (s.setDtr d).pinRxd = s.pinRxd := rfl
@[simp] theorem State.setDtr_osctrim : (s.setDtr d).osctrim = s.osctrim := rfl
@[simp] theorem State.setDtr_nv : (s.setDtr d).nv = s.nv := rfl
@[simp] theorem State.setDtr_cal : (s.setDtr d).cal = s.cal := rfl
@[simp] theorem State.setDtr_ovfOut : (s.setDtr d).ovfOut = s.ovfOut := rfl
@[simp] theorem State.setDtr_ovfIn : (s.setDtr d).ovfIn = s.ovfIn := rfl
end

/-! ### setLc -/

section
variable (l : LineCoding)
@[simp] theorem State.setLc_cfg : (s.setLc l).cfg = s.cfg := rfl
@[simp] theorem State.setLc_port : (s.setLc l).port = s.port := rfl
@[simp] theorem State.setLc_answer : (s.setLc l).answer = s.answer := rfl
@[simp] theorem State.setLc_trace : (s.setLc l).trace = s.trace := rfl
@[simp] theorem State.setLc_rbIn : (s.setLc l).rbIn = s.rbIn := rfl
@[simp] theorem State.setLc_rbOut : (s.setLc l).rbOut = s.rbOut := rfl
@[simp] theorem State.setLc_usbAccept : (s.setLc l).usbAccept = s.usbAccept := rfl
@[simp] theorem State.setLc_rts : (s.setLc l).rts = s.rts := rfl
@[simp] theorem State.setLc_cts : (s.setLc l).cts = s.cts := rfl
@[simp] theorem State.setLc_dtr : (s.setLc l).dtr = s.dtr := rfl
@[simp] theorem State.setLc_zlpPending : (s.setLc l).zlpPending = s.zlpPending := rfl
@[simp] theorem State.setLc_lc : (s.setLc l).lc = l := rfl
@[simp] theorem State.setLc_ocr : (s.setLc l).ocr = s.ocr := rfl
@[simp] theorem State.setLc_first : (s.setLc l).first = s.first := rfl
@[simp] theorem State.setLc_tx : (s.setLc l).tx = s.tx := rfl
@[simp] theorem State.setLc_rx : (s.setLc l).rx = s.rx := rfl
@[simp] theorem State.setLc_pinRxd : (s.setLc l).pinRxd = s.pinRxd := rfl
@[simp] theorem State.setLc_osctrim : (s.setLc l).osctrim = s.osctrim := rfl
@[simp] theorem State.setLc_nv : (s.setLc l).nv = s.nv := rfl
@[simp] theorem State.setLc_cal : (s.setLc l).cal = s.cal := rfl
@[simp] theorem State.setLc_ovfOut : (s.setLc l).ovfOut = s.ovfOut := rfl
@[simp] theorem State.setLc_ovfIn : (s.setLc l).ovfIn = s.ovfIn := rfl
end

/-! ### setTiming -/

section
variable (o : BitVec 16) (f : BitVec 17)
@[simp] theorem State.setTiming_cfg : (s.setTiming o f).cfg = s.cfg := rfl
@[simp] theorem State.setTiming_port : (s.setTiming o f).port = s.port := rfl
@[simp] theorem State.setTiming_answer : (s.setTiming o f).answer = s.answer := rfl
@[simp] theorem State.setTiming_trace : (s.setTiming o f).trace = s.trace := rfl
@[simp] theorem State.setTiming_rbIn : (s.setTiming o f).rbIn = s.rbIn := rfl
@[simp] theorem State.setTiming_rbOut : (s.setTiming o f).rbOut = s.rbOut := rfl
@[simp] theorem State.setTiming_usbAccept : (s.setTiming o f).usbAccept = s.usbAccept := rfl
@[simp] theorem State.setTiming_rts : (s.setTiming o f).rts = s.rts := rfl
@[simp] theorem State.setTiming_cts : (s.setTiming o f).cts = s.cts := rfl
@[simp] theorem State.setTiming_dtr : (s.setTiming o f).dtr = s.dtr := rfl
@[simp] theorem State.setTiming_zlpPending : (s.setTiming o f).zlpPending = s.zlpPending := rfl
@[simp] theorem State.setTiming_lc : (s.setTiming o f).lc = s.lc := rfl
@[simp] theorem State.setTiming_ocr : (s.setTiming o f).ocr = o := rfl
@[simp] theorem State.setTiming_first : (s.setTiming o f).first = f := rfl
@[simp] theorem State.setTiming_tx : (s.setTiming o f).tx = s.tx := rfl
@[simp] theorem State.setTiming_rx : (s.setTiming o f).rx = s.rx := rfl
@[simp] theorem State.setTiming_pinRxd : (s.setTiming o f).pinRxd = s.pinRxd := rfl
@[simp] theorem State.setTiming_osctrim : (s.setTiming o f).osctrim = s.osctrim := rfl
@[simp] theorem State.setTiming_nv : (s.setTiming o f).nv = s.nv := rfl
@[simp] theorem State.setTiming_cal : (s.setTiming o f).cal = s.cal := rfl
@[simp] theorem State.setTiming_ovfOut : (s.setTiming o f).ovfOut = s.ovfOut := rfl
@[simp] theorem State.setTiming_ovfIn : (s.setTiming o f).ovfIn = s.ovfIn := rfl
end

/-! ### setTx -/

section
variable (t : Tx)
@[simp] theorem State.setTx_cfg : (s.setTx t).cfg = s.cfg := rfl
@[simp] theorem State.setTx_port : (s.setTx t).port = s.port := rfl
@[simp] theorem State.setTx_answer : (s.setTx t).answer = s.answer := rfl
@[simp] theorem State.setTx_trace : (s.setTx t).trace = s.trace := rfl
@[simp] theorem State.setTx_rbIn : (s.setTx t).rbIn = s.rbIn := rfl
@[simp] theorem State.setTx_rbOut : (s.setTx t).rbOut = s.rbOut := rfl
@[simp] theorem State.setTx_usbAccept : (s.setTx t).usbAccept = s.usbAccept := rfl
@[simp] theorem State.setTx_rts : (s.setTx t).rts = s.rts := rfl
@[simp] theorem State.setTx_cts : (s.setTx t).cts = s.cts := rfl
@[simp] theorem State.setTx_dtr : (s.setTx t).dtr = s.dtr := rfl
@[simp] theorem State.setTx_zlpPending : (s.setTx t).zlpPending = s.zlpPending := rfl
@[simp] theorem State.setTx_lc : (s.setTx t).lc = s.lc := rfl
@[simp] theorem State.setTx_ocr : (s.setTx t).ocr = s.ocr := rfl
@[simp] theorem State.setTx_first : (s.setTx t).first = s.first := rfl
@[simp] theorem State.setTx_tx : (s.setTx t).tx = t := rfl
@[simp] theorem State.setTx_rx : (s.setTx t).rx = s.rx := rfl
@[simp] theorem State.setTx_pinRxd : (s.setTx t).pinRxd = s.pinRxd := rfl
@[simp] theorem State.setTx_osctrim : (s.setTx t).osctrim = s.osctrim := rfl
@[simp] theorem State.setTx_nv : (s.setTx t).nv = s.nv := rfl
@[simp] theorem State.setTx_cal : (s.setTx t).cal = s.cal := rfl
@[simp] theorem State.setTx_ovfOut : (s.setTx t).ovfOut = s.ovfOut := rfl
@[simp] theorem State.setTx_ovfIn : (s.setTx t).ovfIn = s.ovfIn := rfl
end

/-! ### setRx -/

section
variable (r : Rx)
@[simp] theorem State.setRx_cfg : (s.setRx r).cfg = s.cfg := rfl
@[simp] theorem State.setRx_port : (s.setRx r).port = s.port := rfl
@[simp] theorem State.setRx_answer : (s.setRx r).answer = s.answer := rfl
@[simp] theorem State.setRx_trace : (s.setRx r).trace = s.trace := rfl
@[simp] theorem State.setRx_rbIn : (s.setRx r).rbIn = s.rbIn := rfl
@[simp] theorem State.setRx_rbOut : (s.setRx r).rbOut = s.rbOut := rfl
@[simp] theorem State.setRx_usbAccept : (s.setRx r).usbAccept = s.usbAccept := rfl
@[simp] theorem State.setRx_rts : (s.setRx r).rts = s.rts := rfl
@[simp] theorem State.setRx_cts : (s.setRx r).cts = s.cts := rfl
@[simp] theorem State.setRx_dtr : (s.setRx r).dtr = s.dtr := rfl
@[simp] theorem State.setRx_zlpPending : (s.setRx r).zlpPending = s.zlpPending := rfl
@[simp] theorem State.setRx_lc : (s.setRx r).lc = s.lc := rfl
@[simp] theorem State.setRx_ocr : (s.setRx r).ocr = s.ocr := rfl
@[simp] theorem State.setRx_first : (s.setRx r).first = s.first := rfl
@[simp] theorem State.setRx_tx : (s.setRx r).tx = s.tx := rfl
@[simp] theorem State.setRx_rx : (s.setRx r).rx = r := rfl
@[simp] theorem State.setRx_pinRxd : (s.setRx r).pinRxd = s.pinRxd := rfl
@[simp] theorem State.setRx_osctrim : (s.setRx r).osctrim = s.osctrim := rfl
@[simp] theorem State.setRx_nv : (s.setRx r).nv = s.nv := rfl
@[simp] theorem State.setRx_cal : (s.setRx r).cal = s.cal := rfl
@[simp] theorem State.setRx_ovfOut : (s.setRx r).ovfOut = s.ovfOut := rfl
@[simp] theorem State.setRx_ovfIn : (s.setRx r).ovfIn = s.ovfIn := rfl
end

/-! ### setCal -/

section
variable (c : Cal)
@[simp] theorem State.setCal_cfg : (s.setCal c).cfg = s.cfg := rfl
@[simp] theorem State.setCal_port : (s.setCal c).port = s.port := rfl
@[simp] theorem State.setCal_answer : (s.setCal c).answer = s.answer := rfl
@[simp] theorem State.setCal_trace : (s.setCal c).trace = s.trace := rfl
@[simp] theorem State.setCal_rbIn : (s.setCal c).rbIn = s.rbIn := rfl
@[simp] theorem State.setCal_rbOut : (s.setCal c).rbOut = s.rbOut := rfl
@[simp] theorem State.setCal_usbAccept : (s.setCal c).usbAccept = s.usbAccept := rfl
@[simp] theorem State.setCal_rts : (s.setCal c).rts = s.rts := rfl
@[simp] theorem State.setCal_cts : (s.setCal c).cts = s.cts := rfl
@[simp] theorem State.setCal_dtr : (s.setCal c).dtr = s.dtr := rfl
@[simp] theorem State.setCal_zlpPending : (s.setCal c).zlpPending = s.zlpPending := rfl
@[simp] theorem State.setCal_lc : (s.setCal c).lc = s.lc := rfl
@[simp] theorem State.setCal_ocr : (s.setCal c).ocr = s.ocr := rfl
@[simp] theorem State.setCal_first : (s.setCal c).first = s.first := rfl
@[simp] theorem State.setCal_tx : (s.setCal c).tx = s.tx := rfl
@[simp] theorem State.setCal_rx : (s.setCal c).rx = s.rx := rfl
@[simp] theorem State.setCal_pinRxd : (s.setCal c).pinRxd = s.pinRxd := rfl
@[simp] theorem State.setCal_osctrim : (s.setCal c).osctrim = s.osctrim := rfl
@[simp] theorem State.setCal_nv : (s.setCal c).nv = s.nv := rfl
@[simp] theorem State.setCal_cal : (s.setCal c).cal = c := rfl
@[simp] theorem State.setCal_ovfOut : (s.setCal c).ovfOut = s.ovfOut := rfl
@[simp] theorem State.setCal_ovfIn : (s.setCal c).ovfIn = s.ovfIn := rfl
end

/-! ### applyTrim -/

section
variable (v : Byte)
@[simp] theorem State.applyTrim_cfg : (s.applyTrim v).cfg = s.cfg := rfl
@[simp] theorem State.applyTrim_port : (s.applyTrim v).port = s.port := rfl
@[simp] theorem State.applyTrim_answer : (s.applyTrim v).answer = s.answer := rfl
@[simp] theorem State.applyTrim_trace : (s.applyTrim v).trace = s.trace ++ [.trimWrite v] := rfl
@[simp] theorem State.applyTrim_rbIn : (s.applyTrim v).rbIn = s.rbIn := rfl
@[simp] theorem State.applyTrim_rbOut : (s.applyTrim v).rbOut = s.rbOut := rfl
@[simp] theorem State.applyTrim_usbAccept : (s.applyTrim v).usbAccept = s.usbAccept := rfl
@[simp] theorem State.applyTrim_rts : (s.applyTrim v).rts = s.rts := rfl
@[simp] theorem State.applyTrim_cts : (s.applyTrim v).cts = s.cts := rfl
@[simp] theorem State.applyTrim_dtr : (s.applyTrim v).dtr = s.dtr := rfl
@[simp] theorem State.applyTrim_zlpPending : (s.applyTrim v).zlpPending = s.zlpPending := rfl
@[simp] theorem State.applyTrim_lc : (s.applyTrim v).lc = s.lc := rfl
@[simp] theorem State.applyTrim_ocr : (s.applyTrim v).ocr = s.ocr := rfl
@[simp] theorem State.applyTrim_first : (s.applyTrim v).first = s.first := rfl
@[simp] theorem State.applyTrim_tx : (s.applyTrim v).tx = s.tx := rfl
@[simp] theorem State.applyTrim_rx : (s.applyTrim v).rx = s.rx := rfl
@[simp] theorem State.applyTrim_pinRxd : (s.applyTrim v).pinRxd = s.pinRxd := rfl
@[simp] theorem State.applyTrim_osctrim : (s.applyTrim v).osctrim = v := rfl
@[simp] theorem State.applyTrim_nv : (s.applyTrim v).nv = s.nv := rfl
@[simp] theorem State.applyTrim_cal : (s.applyTrim v).cal = s.cal := rfl
@[simp] theorem State.applyTrim_ovfOut : (s.applyTrim v).ovfOut = s.ovfOut := rfl
@[simp] theorem State.applyTrim_ovfIn : (s.applyTrim v).ovfIn = s.ovfIn := rfl
end

/-! ### storeNv -/

section
variable (v : Byte)
@[simp] theorem State.storeNv_cfg : (s.storeNv v).cfg = s.cfg := rfl
@[simp] theorem State.storeNv_port : (s.storeNv v).port = s.port := rfl
@[simp] theorem State.storeNv_answer : (s.storeNv v).answer = s.answer := rfl
@[simp] theorem State.storeNv_trace : (s.storeNv v).trace = s.trace ++ [.nvWrite v] := rfl
@[simp] theorem State.storeNv_rbIn : (s.storeNv v).rbIn = s.rbIn := rfl
@[simp] theorem State.storeNv_rbOut : (s.storeNv v).rbOut = s.rbOut := rfl
@[simp] theorem State.storeNv_usbAccept : (s.storeNv v).usbAccept = s.usbAccept := rfl
@[simp] theorem State.storeNv_rts : (s.storeNv v).rts = s.rts := rfl
@[simp] theorem State.storeNv_cts : (s.storeNv v).cts = s.cts := rfl
@[simp] theorem State.storeNv_dtr : (s.storeNv v).dtr = s.dtr := rfl
@[simp] theorem State.storeNv_zlpPending : (s.storeNv v).zlpPending = s.zlpPending := rfl
@[simp] theorem State.storeNv_lc : (s.storeNv v).lc = s.lc := rfl
@[simp] theorem State.storeNv_ocr : (s.storeNv v).ocr = s.ocr := rfl
@[simp] theorem State.storeNv_first : (s.storeNv v).first = s.first := rfl
@[simp] theorem State.storeNv_tx : (s.storeNv v).tx = s.tx := rfl
@[simp] theorem State.storeNv_rx : (s.storeNv v).rx = s.rx := rfl
@[simp] theorem State.storeNv_pinRxd : (s.storeNv v).pinRxd = s.pinRxd := rfl
@[simp] theorem State.storeNv_osctrim : (s.storeNv v).osctrim = s.osctrim := rfl
@[simp] theorem State.storeNv_nv : (s.storeNv v).nv = v := rfl
@[simp] theorem State.storeNv_cal : (s.storeNv v).cal = s.cal := rfl
@[simp] theorem State.storeNv_ovfOut : (s.storeNv v).ovfOut = s.ovfOut := rfl
@[simp] theorem State.storeNv_ovfIn : (s.storeNv v).ovfIn = s.ovfIn := rfl
end

/-! ### givePacket -/

section
variable (p : List Byte)
@[simp] theorem State.givePacket_cfg : (s.givePacket p).cfg = s.cfg := rfl
@[simp] theorem State.givePacket_port : (s.givePacket p).port = p :: s.port := rfl
@[simp] theorem State.givePacket_answer : (s.givePacket p).answer = s.answer := rfl
@[simp] theorem State.givePacket_trace : (s.givePacket p).trace = s.trace := rfl
@[simp] theorem State.givePacket_rbIn : (s.givePacket p).rbIn = s.rbIn := rfl
@[simp] theorem State.givePacket_rbOut : (s.givePacket p).rbOut = s.rbOut := rfl
@[simp] theorem State.givePacket_usbAccept : (s.givePacket p).usbAccept = s.usbAccept := rfl
@[simp] theorem State.givePacket_rts : (s.givePacket p).rts = s.rts := rfl
@[simp] theorem State.givePacket_cts : (s.givePacket p).cts = s.cts := rfl
@[simp] theorem State.givePacket_dtr : (s.givePacket p).dtr = s.dtr := rfl
@[simp] theorem State.givePacket_zlpPending : (s.givePacket p).zlpPending = s.zlpPending := rfl
@[simp] theorem State.givePacket_lc : (s.givePacket p).lc = s.lc := rfl
@[simp] theorem State.givePacket_ocr : (s.givePacket p).ocr = s.ocr := rfl
@[simp] theorem State.givePacket_first : (s.givePacket p).first = s.first := rfl
@[simp] theorem State.givePacket_tx : (s.givePacket p).tx = s.tx := rfl
@[simp] theorem State.givePacket_rx : (s.givePacket p).rx = s.rx := rfl
@[simp] theorem State.givePacket_pinRxd : (s.givePacket p).pinRxd = s.pinRxd := rfl
@[simp] theorem State.givePacket_osctrim : (s.givePacket p).osctrim = s.osctrim := rfl
@[simp] theorem State.givePacket_nv : (s.givePacket p).nv = s.nv := rfl
@[simp] theorem State.givePacket_cal : (s.givePacket p).cal = s.cal := rfl
@[simp] theorem State.givePacket_ovfOut : (s.givePacket p).ovfOut = s.ovfOut := rfl
@[simp] theorem State.givePacket_ovfIn : (s.givePacket p).ovfIn = s.ovfIn := rfl
end

/-! ### raiseFault -/

section
variable (b : FaultBit)
@[simp] theorem State.raiseFault_cfg : (s.raiseFault b).cfg = s.cfg := by cases b <;> rfl
@[simp] theorem State.raiseFault_port : (s.raiseFault b).port = s.port := by cases b <;> rfl
@[simp] theorem State.raiseFault_answer : (s.raiseFault b).answer = s.answer := by cases b <;> rfl
@[simp] theorem State.raiseFault_trace : (s.raiseFault b).trace = s.trace := by cases b <;> rfl
@[simp] theorem State.raiseFault_rbIn : (s.raiseFault b).rbIn = s.rbIn := by cases b <;> rfl
@[simp] theorem State.raiseFault_rbOut : (s.raiseFault b).rbOut = s.rbOut := by cases b <;> rfl
@[simp] theorem State.raiseFault_usbAccept : (s.raiseFault b).usbAccept = s.usbAccept := by cases b <;> rfl
@[simp] theorem State.raiseFault_rts : (s.raiseFault b).rts = s.rts := by cases b <;> rfl
@[simp] theorem State.raiseFault_cts : (s.raiseFault b).cts = s.cts := by cases b <;> rfl
@[simp] theorem State.raiseFault_dtr : (s.raiseFault b).dtr = s.dtr := by cases b <;> rfl
@[simp] theorem State.raiseFault_zlpPending : (s.raiseFault b).zlpPending = s.zlpPending := by cases b <;> rfl
@[simp] theorem State.raiseFault_lc : (s.raiseFault b).lc = s.lc := by cases b <;> rfl
@[simp] theorem State.raiseFault_ocr : (s.raiseFault b).ocr = s.ocr := by cases b <;> rfl
@[simp] theorem State.raiseFault_first : (s.raiseFault b).first = s.first := by cases b <;> rfl
@[simp] theorem State.raiseFault_tx : (s.raiseFault b).tx = s.tx := by cases b <;> rfl
@[simp] theorem State.raiseFault_rx : (s.raiseFault b).rx = s.rx := by cases b <;> rfl
@[simp] theorem State.raiseFault_pinRxd : (s.raiseFault b).pinRxd = s.pinRxd := by cases b <;> rfl
@[simp] theorem State.raiseFault_osctrim : (s.raiseFault b).osctrim = s.osctrim := by cases b <;> rfl
@[simp] theorem State.raiseFault_nv : (s.raiseFault b).nv = s.nv := by cases b <;> rfl
@[simp] theorem State.raiseFault_cal : (s.raiseFault b).cal = s.cal := by cases b <;> rfl
@[simp] theorem State.raiseFault_ovfOut : (s.raiseFault b).ovfOut = (s.ovfOut || b == .ovfOut) := by
  cases b <;> simp [State.raiseFault]
@[simp] theorem State.raiseFault_ovfIn : (s.raiseFault b).ovfIn = (s.ovfIn || b == .ovfIn) := by
  cases b <;> simp [State.raiseFault]
end

end Sys2Proof.Machine
end

