-- ==== Sys2Proof/Laws/Ops.lean ====
section
/-! SUPPORT. One lemma per shared operation, saying once everything it can do: provers cite these instead of
unfolding the operation. -/

namespace Sys2Proof.Machine

/-! ### Answers -/

theorem State.okWith_eq (s : State) (bytes : List Byte) :
    s.okWith bytes = .next { s with answer := some ⟨.ok, bytes⟩ } := rfl

theorem State.ok_eq (s : State) : s.ok = .next { s with answer := some ⟨.ok, []⟩ } := rfl

theorem State.nak_eq (s : State) : s.nak = .next { s with answer := some ⟨.nak, []⟩ } := rfl

theorem State.stall_eq (s : State) : s.stall = .next { s with answer := some ⟨.stall, []⟩ } := rfl

/-! ### Gates -/

/-- The three cases of the hysteresis (R155). -/
theorem hyst_cases (g : Bool) (f stop resume : Nat) :
    (f < stop ∧ hyst g f stop resume = false) ∨
    (stop ≤ f ∧ resume < f ∧ hyst g f stop resume = true) ∨
    (stop ≤ f ∧ f ≤ resume ∧ hyst g f stop resume = g) := by
  unfold hyst
  split_ifs <;> simp <;> omega

/-- All `gate_eval` does (R156). -/
theorem State.gateEval_eq (s : State) :
    s.gateEval = { s with
      usbAccept := hyst s.usbAccept s.freeOut s.cfg.pktOut (s.cfg.pktOut + s.cfg.outHeadroom)
      rts := hyst s.rts s.freeIn s.cfg.inStopFree s.cfg.inResumeFree } := rfl

/-! ### Configuration -/

/-- All `configure` does (R191, R255). -/
theorem State.configure_eq (s : State) :
    s.configure = { s with
      ocr := quantize s.cfg (rate s.lc)
      first := firstOffset (quantize s.cfg (rate s.lc))
      trace := s.trace ++
        (match s.cfg.backend with
         | .software => []
         | .hardware => [.periphCfg s.lc]) } := by
  unfold State.configure
  cases h : s.cfg.backend <;> simp [State.retime, State.setTiming, State.emit]

/-- `T = ocr + 1`, `1 .. 65536` (R191). -/
theorem bitPeriod_toNat (ocr : BitVec 16) : (bitPeriod ocr).toNat = ocr.toNat + 1 := by
  have := ocr.isLt
  simp [bitPeriod, BitVec.toNat_add, BitVec.toNat_setWidth]
  omega

theorem bitPeriod_ne_zero (ocr : BitVec 16) : bitPeriod ocr ≠ 0 := by
  intro h
  have := bitPeriod_toNat ocr
  simp [h] at this

/-- `first = T + floor(T / 4)` (R191). -/
theorem firstOffset_toNat (ocr : BitVec 16) :
    (firstOffset ocr).toNat = (ocr.toNat + 1) + (ocr.toNat + 1) / 4 := by
  have := ocr.isLt
  simp only [firstOffset, BitVec.toNat_add, BitVec.toNat_ushiftRight, bitPeriod_toNat,
    Nat.shiftRight_eq_div_pow]
  omega

/-- The quantised value fits its element (R33). -/
theorem quantize_toNat (c : Cfg) (baud : Nat) : (quantize c baud).toNat = quantizeNat c baud := by
  have h1 : quantizeNat c baud ≤ c.ocrMax := by
    unfold quantizeNat
    split_ifs <;> omega
  have h2 : c.ocrMax < 65536 := by
    have hb : c.ocrBits ≤ 16 := c.valid.2.2.2.2.2.2.2.2.1.2
    have : 2 ^ c.ocrBits ≤ 2 ^ 16 := Nat.pow_le_pow_right (by decide) hb
    have : 0 < 2 ^ c.ocrBits := Nat.pos_of_ne_zero (by simp)
    unfold Cfg.ocrMax
    omega
  simp only [quantize, BitVec.toNat_ofNat]
  omega

/-! ### Trim values -/

/-- A value in range is stored as it is (R138 item 3). -/
theorem trimOf_toNat (c : Cfg) (z : Int) (h0 : 0 ≤ z) (h1 : z < ((2 ^ c.trimBits : Nat) : Int)) :
    (trimOf c z).toNat = z.toNat := by
  have hb : c.trimBits ≤ 8 := c.valid.2.2.2.2.2.2.2.2.2.1.2
  have : 2 ^ c.trimBits ≤ 2 ^ 8 := Nat.pow_le_pow_right (by decide) hb
  have e := Int.emod_eq_of_lt h0 h1
  simp only [trimOf, e, BitVec.toNat_ofNat]
  omega

/-- Every value written to a trim-wide element is a trim value (R42). -/
theorem trimOf_lt (c : Cfg) (z : Int) : (trimOf c z).toNat < 2 ^ c.trimBits := by
  have hp : (0 : Int) < ((2 ^ c.trimBits : Nat) : Int) := by positivity
  have h1 := Int.emod_lt_of_pos z hp
  have h2 := Int.emod_nonneg z (ne_of_gt hp)
  simp only [trimOf, BitVec.toNat_ofNat]
  have := Nat.mod_le ((z % ((2 ^ c.trimBits : Nat) : Int)).toNat) 256
  omega

theorem bootTrim_lt (c : Cfg) (nv : Byte) : (bootTrim c nv).toNat < 2 ^ c.trimBits := by
  unfold bootTrim
  split_ifs
  · exact c.valid.2.2.2.2.2.2.2.2.2.2.2.2
  · exact trimOf_lt _ _

/-! ### Producers and consumers -/

/-- What one byte of a USB_OUT packet does (R160, R162). -/
theorem State.pushOut_cases (s : State) (b : Byte) :
    (s.freeOut ≠ 0 ∧ ∃ r, s.rbOut.enqueue s.cfg.capOut b = some r ∧ s.pushOut b = s.setOut r) ∨
    (s.freeOut = 0 ∧ s.pushOut b = s.raiseFault .ovfOut) := by
  unfold State.pushOut
  cases h : s.rbOut.enqueue s.cfg.capOut b with
  | none => exact .inr ⟨Ring.enqueue_eq_none.1 h, rfl⟩
  | some r => exact .inl ⟨(Ring.enqueue_eq_some.1 h).1, r, rfl, rfl⟩

/-- What a completed byte does (R209, R162). -/
theorem State.pushIn_cases (s : State) (b : Byte) :
    (s.freeIn ≠ 0 ∧ ∃ r, s.rbIn.enqueue s.cfg.capIn b = some r ∧ s.pushIn b = s.setIn r) ∨
    (s.freeIn = 0 ∧ s.pushIn b = s) := by
  unfold State.pushIn
  cases h : s.rbIn.enqueue s.cfg.capIn b with
  | none => exact .inr ⟨Ring.enqueue_eq_none.1 h, rfl⟩
  | some r => exact .inl ⟨(Ring.enqueue_eq_some.1 h).1, r, rfl, rfl⟩

/-- What `tx_start` does (R193). -/
theorem State.txStart_cases (s : State) :
    (s.tx.idle = true ∧ s.txPermitted = true ∧ s.usedOut ≠ 0 ∧
      ∃ b r, s.rbOut.dequeue s.cfg.capOut = some (b, r) ∧
        s.txStart = (s.setOut r).setTx (s.tx.load s.ocr b)) ∨
    ((s.tx.idle = false ∨ s.txPermitted = false ∨ s.usedOut = 0) ∧ s.txStart = s) := by
  unfold State.txStart
  by_cases h : (s.tx.idle && s.txPermitted) = true
  · rw [if_pos h]
    simp only [Bool.and_eq_true] at h
    cases hd : s.rbOut.dequeue s.cfg.capOut with
    | none => exact .inr ⟨.inr (.inr (Ring.dequeue_eq_none.1 hd)), rfl⟩
    | some p => exact .inl ⟨h.1, h.2, (Ring.dequeue_eq_some.1 hd).1, p.1, p.2, rfl, rfl⟩
  · rw [if_neg h]
    refine .inr ⟨?_, rfl⟩
    cases hi : s.tx.idle <;> cases hp : s.txPermitted <;> simp_all

/-- What the hardware receive step does (R252). -/
theorem State.hwReceive_cases (s : State) (flags b : Byte) :
    (flagRxValid flags = true ∧ flagRxErr flags = false ∧ s.freeIn ≠ 0 ∧
      ∃ r, s.rbIn.enqueue s.cfg.capIn b = some r ∧ s.hwReceive flags b = s.setIn r) ∨
    (flagRxValid flags = true ∧ flagRxErr flags = false ∧ s.freeIn = 0 ∧
      s.hwReceive flags b = s.raiseFault .ovfIn) ∨
    ((flagRxValid flags = false ∨ flagRxErr flags = true) ∧ s.hwReceive flags b = s) := by
  unfold State.hwReceive
  cases hv : flagRxValid flags <;> cases he : flagRxErr flags <;> simp
  cases h : s.rbIn.enqueue s.cfg.capIn b with
  | none => exact .inr ⟨Ring.enqueue_eq_none.1 h, rfl⟩
  | some r => exact .inl ⟨(Ring.enqueue_eq_some.1 h).1, r, rfl, rfl⟩

/-- What the hardware transmit step does (R253). -/
theorem State.hwTransmit_cases (s : State) (flags : Byte) :
    (flagTxReady flags = true ∧ s.cts = true ∧ s.usedOut ≠ 0 ∧
      ∃ b r, s.rbOut.dequeue s.cfg.capOut = some (b, r) ∧
        s.hwTransmit flags = ([b], (s.setOut r).emit (.periphTx b))) ∨
    ((flagTxReady flags = false ∨ s.cts = false ∨ s.usedOut = 0) ∧ s.hwTransmit flags = ([], s)) := by
  unfold State.hwTransmit
  cases hr : flagTxReady flags <;> cases hc : s.cts <;> simp
  cases hd : s.rbOut.dequeue s.cfg.capOut with
  | none => exact .inr ⟨Ring.dequeue_eq_none.1 hd, rfl⟩
  | some p => exact .inl ⟨(Ring.dequeue_eq_some.1 hd).1, p.1, p.2, rfl, rfl⟩

/-! ### The bit engine -/

/-- The transmitter's part of a TICK (R200, R196). -/
theorem Tx.tick_cases (t : Tx) (invert : Bool) (ocr : BitVec 16) :
    (t.left = 0 ∧ t.tick invert ocr = t) ∨
    (t.left ≠ 0 ∧ t.cnt ≠ 1 ∧ t.tick invert ocr = { t with cnt := t.cnt - 1 }) ∨
    (1 < t.left ∧ t.cnt = 1 ∧ t.tick invert ocr =
      { t with
        txd := t.frame.getLsbD 9 ^^ invert
        frame := (t.frame <<< 1) ||| 1
        left := t.left - 1
        cnt := bitPeriod ocr }) ∨
    (t.left = 1 ∧ t.cnt = 1 ∧ t.tick invert ocr = { t with cnt := 0, left := 0, idle := true }) := by
  unfold Tx.tick
  by_cases h0 : t.left = 0
  · exact .inl ⟨h0, by rw [if_pos h0]⟩
  · rw [if_neg h0]
    by_cases h1 : t.cnt = 1
    · have hz : t.cnt - 1 = 0 := by rw [h1]; decide
      simp only [hz, if_true]
      unfold Tx.bitEvent
      by_cases h2 : 1 < t.left
      · exact .inr (.inr (.inl ⟨h2, h1, by rw [if_pos h2]⟩))
      · have h3 : t.left = 1 := by bv_omega
        exact .inr (.inr (.inr ⟨h3, h1, by simp [h3]⟩))
    · have hz : t.cnt - 1 ≠ 0 := fun h => h1 (by bv_omega)
      exact .inr (.inl ⟨h0, h1, by rw [if_neg hz]⟩)

/-- The receiver's events of a TICK (R200, R204, R209). -/
theorem State.rxEvents_cases (s : State) (lvl : Bool) :
    (s.rx.left = 0 ∧ ¬ (s.rx.prev = true ∧ lvl = false) ∧ s.rxEvents lvl = s) ∨
    (s.rx.left = 0 ∧ s.rx.prev = true ∧ lvl = false ∧
      s.rxEvents lvl = s.setRx { s.rx with left := 8, cnt := s.first }) ∨
    (s.rx.left ≠ 0 ∧ s.rx.cnt ≠ 1 ∧ s.rxEvents lvl = s.setRx { s.rx with cnt := s.rx.cnt - 1 }) ∨
    (s.rx.left ≠ 0 ∧ s.rx.left ≠ 1 ∧ s.rx.cnt = 1 ∧ s.rxEvents lvl = s.setRx { s.rx with
      shift := shiftIn lvl s.rx.shift, left := s.rx.left - 1, cnt := bitPeriod s.ocr }) ∨
    (s.rx.left = 1 ∧ s.rx.cnt = 1 ∧ s.rxEvents lvl =
      ((s.setRx { s.rx with shift := shiftIn lvl s.rx.shift, left := 0, cnt := 0 }).pushIn
        (shiftIn lvl s.rx.shift)).gateEval) := by
  by_cases h0 : s.rx.left = 0
  · unfold State.rxEvents
    rw [if_pos h0]
    cases hp : s.rx.prev <;> cases lvl <;> simp [h0, Rx.edge]
  · have e : s.rxEvents lvl =
        if s.rx.cnt - 1 = 0 then (s.setRx { s.rx with cnt := s.rx.cnt - 1 }).rxSample lvl
        else s.setRx { s.rx with cnt := s.rx.cnt - 1 } := by
      unfold State.rxEvents
      rw [if_neg h0]
      rfl
    by_cases h1 : s.rx.cnt = 1
    · have hz : s.rx.cnt - 1 = 0 := by rw [h1]; decide
      rw [if_pos hz] at e
      unfold State.rxSample at e
      by_cases h2 : s.rx.left = 1
      · have hl : s.rx.left - 1 = 0 := by rw [h2]; decide
        refine .inr (.inr (.inr (.inr ⟨h2, h1, (e.trans (if_pos hl)).trans ?_⟩)))
        simp only [State.setRx, hl, hz]
      · have hl : s.rx.left - 1 ≠ 0 := fun h => h2 (by bv_omega)
        exact .inr (.inr (.inr (.inl ⟨h0, h2, h1, e.trans (if_neg hl)⟩)))
    · have hz : s.rx.cnt - 1 ≠ 0 := fun h => h1 (by bv_omega)
      exact .inr (.inr (.inl ⟨h0, h1, e.trans (if_neg hz)⟩))

/-- `shiftIn` puts the sample in bit 7 and moves every other bit one place down (R208). -/
theorem shiftIn_getLsbD (lvl : Bool) (b : Byte) (i : Nat) (h : i < 8) :
    (shiftIn lvl b).getLsbD i = if i = 7 then lvl else b.getLsbD (i + 1) := by
  have : i = 0 ∨ i = 1 ∨ i = 2 ∨ i = 3 ∨ i = 4 ∨ i = 5 ∨ i = 6 ∨ i = 7 := by omega
  rcases this with h | h | h | h | h | h | h | h <;> subst h <;> cases lvl <;> simp [shiftIn]

/-- `frame(b)`, bit by bit (R194). -/
theorem frame_getLsbD (b : Byte) (i : Nat) (h : i < 10) :
    (frame b).getLsbD i = if i = 0 then true else if i = 9 then false else b.getLsbD (8 - i) := by
  have : i = 0 ∨ i = 1 ∨ i = 2 ∨ i = 3 ∨ i = 4 ∨ i = 5 ∨ i = 6 ∨ i = 7 ∨ i = 8 ∨ i = 9 := by omega
  rcases this with h | h | h | h | h | h | h | h | h | h <;> subst h <;>
    simp [frame, rev8, BitVec.getElem_reverse, BitVec.getMsbD]

end Sys2Proof.Machine
end

