-- ==== Sys2Proof/Laws/Calibration.lean ====
section
/-! SUPPORT. The calibration sequencer: ranges of the trim-wide elements, the deviation, the admissible
candidates, and everything each step of a pass can do (40_calibration.md R126 to R134). -/

namespace Sys2Proof

/-! ### The search bits -/

theorem Cfg.trimBits_le (c : Cfg) : c.trimBits ≤ 8 := c.valid.2.2.2.2.2.2.2.2.2.1.2

/-- `K` search bits, one fewer than the trim bits when the range is split (R8). -/
theorem Cfg.k_add_split (c : Cfg) : c.k + c.split.toNat = c.trimBits := by
  have h1 := c.valid.2.2.2.2.2.2.2.2.2.1.1
  unfold Cfg.k
  cases c.split <;> simp [Bool.toNat]; omega

/-- There is at least one search bit (R8: `SPLIT = 1` needs `TRIM_BITS >= 2`). -/
theorem Cfg.k_pos (c : Cfg) : 1 ≤ c.k := by
  have h1 := c.valid.2.2.2.2.2.2.2.2.2.1.1
  have h2 := c.valid.2.2.2.2.2.2.2.2.2.2.1
  unfold Cfg.k
  cases h : c.split with
  | false => simpa [Bool.toNat] using h1
  | true => have := h2 h; simp [Bool.toNat]; omega

end Sys2Proof

namespace Sys2Proof.Machine

/-- A searched range lies inside the trim range (R138 item 3). -/
theorem State.base_add_le (s : State) (h : s.BaseOk) :
    s.cal.base.toNat + 2 ^ s.cfg.k ≤ 2 ^ s.cfg.trimBits := by
  have hk := s.cfg.k_add_split
  rcases h with h | ⟨hs, hb⟩
  · rw [h, ← hk]
    simpa using Nat.pow_le_pow_right (n := 2) (by decide) (Nat.le_add_right _ _)
  · rw [hb, ← hk, hs]
    simp [Bool.toNat, Nat.pow_succ]
    omega

/-! ### Deviations -/

theorem absdiff_toNat (a b : Half) : (absdiff a b).toNat = (a.toNat - b.toNat) + (b.toNat - a.toNat) := by
  have := a.isLt
  have := b.isLt
  unfold absdiff
  split
  · rename_i h
    rw [BitVec.le_def] at h
    rw [BitVec.toNat_sub_of_le h]
    omega
  · rename_i h
    rw [BitVec.le_def] at h
    rw [BitVec.toNat_sub_of_le (BitVec.le_def.2 (by omega))]
    omega

/-- `dev(x)` (R126). -/
@[simp] theorem State.dev_toNat (s : State) (x : Half) : (s.dev x).toNat = deviation s.cfg x :=
  absdiff_toNat x s.cfg.target

/-! ### Candidates -/

theorem Cal.admissible_iff {c : Cal} {k i : Nat} :
    c.admissible k i = true ↔
      (c.base.toNat : Int) ≤ c.coarse.toNat - 2 + i ∧
      (c.coarse.toNat : Int) - 2 + i ≤ c.base.toNat + 2 ^ k - 1 := by
  simp [Cal.admissible, Cal.cand]

/-- The least admissible index from `start` on (R132, R133). -/
theorem Cal.nextCand_eq_some {c : Cal} {k start j : Nat} :
    c.nextCand k start = some j ↔
      start ≤ j ∧ j < 5 ∧ c.admissible k j = true ∧
      ∀ i, start ≤ i → i < j → c.admissible k i = false := by
  unfold Cal.nextCand
  rw [List.find?_range_eq_some]
  simp only [Bool.and_eq_true, decide_eq_true_eq, List.mem_range, Bool.not_eq_true',
    Bool.and_eq_false_imp]
  constructor
  · rintro ⟨⟨h1, h2⟩, h3, h4⟩
    exact ⟨h1, h3, h2, fun i hi hj => h4 i hj (by simpa using hi)⟩
  · rintro ⟨h1, h2, h3, h4⟩
    exact ⟨⟨h1, h3⟩, h2, fun i hj hi => h4 i (by simpa using hi) hj⟩

theorem Cal.nextCand_eq_none {c : Cal} {k start : Nat} :
    c.nextCand k start = none ↔ ∀ j, start ≤ j → j < 5 → c.admissible k j = false := by
  unfold Cal.nextCand
  rw [List.find?_eq_none]
  simp only [List.mem_range, Bool.and_eq_true, decide_eq_true_eq, not_and, Bool.not_eq_true]
  exact ⟨fun h j h1 h2 => h j h2 h1, fun h j h1 h2 => h j h2 h1⟩

/-! ### The steps of a pass -/

/-- All `begin_search` does (R129). -/
theorem State.beginSearch_eq (s : State) :
    s.beginSearch = { s with
      osctrim := trimOf s.cfg ((s.cal.base.toNat : Int) + 2 ^ (s.cfg.k - 1))
      cal := { s.cal with
        trial := trimOf s.cfg ((s.cal.base.toNat : Int) + 2 ^ (s.cfg.k - 1))
        step := trimOf s.cfg (2 ^ (s.cfg.k - 1))
        phase := .search }
      trace := s.trace ++
        [.trimWrite (trimOf s.cfg ((s.cal.base.toNat : Int) + 2 ^ (s.cfg.k - 1))), .measRequest] } := by
  simp [State.beginSearch, State.setCal, State.probe, State.applyTrim, State.emit]

/-- All `begin_neigh` does, once its first candidate is known (R132). -/
theorem State.beginNeigh_eq {s : State} {i : Nat} (h : s.cal.nextCand s.cfg.k 0 = some i) :
    s.beginNeigh = { s with
      osctrim := trimOf s.cfg (s.cal.cand i)
      cal := { s.cal with
        best := s.cal.coarse, bestDev := 0xFFFF, idx := BitVec.ofNat 3 i, phase := .neigh }
      trace := s.trace ++ [.trimWrite (trimOf s.cfg (s.cal.cand i)), .measRequest] } := by
  simp [State.beginNeigh, h, State.setCal, State.probe, State.applyTrim, State.emit]

/-- All `finish_pass` does (R134). -/
theorem State.finishPass_eq (s : State) :
    s.finishPass = { s with
      osctrim := s.cal.best
      nv := s.cal.best
      cal := { s.cal with phase := .idle }
      trace := s.trace ++ [.trimWrite s.cal.best] ++
        (if s.cal.best = s.nv then [] else [.nvWrite s.cal.best]) } := by
  unfold State.finishPass
  by_cases h : s.cal.best = s.nv
  · simp [h, State.setCal, State.applyTrim]
  · simp [h, State.setCal, State.applyTrim, State.storeNv]

/-- The three ways a search step goes on (R130, R131). -/
theorem State.stepSearch_cases (s : State) (x : Half) :
    (2 ≤ s.cal.step.toNat ∧ s.stepSearch x = { s with
      osctrim := s.nextTrial x (s.cal.step >>> 1)
      cal := { s.cal with trial := s.nextTrial x (s.cal.step >>> 1), step := s.cal.step >>> 1 }
      trace := s.trace ++ [.trimWrite (s.nextTrial x (s.cal.step >>> 1)), .measRequest] }) ∨
    (s.cal.step.toNat ≤ 1 ∧ s.cal.baseDev.toNat < deviation s.cfg x ∧ s.stepSearch x = { s with
      osctrim := s.cal.saved
      cal := { s.cal with coarse := s.cal.trial, phase := .idle }
      trace := s.trace ++ [.trimWrite s.cal.saved] }) ∨
    (s.cal.step.toNat ≤ 1 ∧ deviation s.cfg x ≤ s.cal.baseDev.toNat ∧
      s.stepSearch x = (s.setCal { s.cal with coarse := s.cal.trial }).beginNeigh) := by
  have hs : (s.cal.step >>> 1).toNat = s.cal.step.toNat / 2 := by
    simp [BitVec.toNat_ushiftRight, Nat.shiftRight_eq_div_pow]
  unfold State.stepSearch
  by_cases h : s.cal.step >>> 1 = 0
  · have h1 : s.cal.step.toNat ≤ 1 := by
      rw [h] at hs; simp at hs; omega
    rw [if_pos h]
    unfold State.finishSearch
    by_cases hd : s.cal.baseDev < s.dev x
    · refine .inr (.inl ⟨h1, ?_, ?_⟩)
      · simpa [BitVec.lt_def] using hd
      · rw [if_pos (by simpa using hd)]
        simp [State.setCal, State.applyTrim]
    · refine .inr (.inr ⟨h1, ?_, ?_⟩)
      · simpa [BitVec.lt_def] using hd
      · rw [if_neg (by simpa using hd)]
  · have h1 : 2 ≤ s.cal.step.toNat := by
      rcases Nat.lt_or_ge s.cal.step.toNat 2 with hlt | hge
      · exact absurd (BitVec.eq_of_toNat_eq (by rw [hs]; simp; omega)) h
      · exact hge
    rw [if_neg h]
    refine .inl ⟨h1, ?_⟩
    simp [State.setCal, State.probe, State.applyTrim, State.emit]

/-- The two ways a neighbourhood step goes on (R133, R134). -/
theorem State.stepNeigh_cases (s : State) (x : Half) :
    (∃ j, s.cal.nextCand s.cfg.k (s.cal.idx.toNat + 1) = some j ∧ s.stepNeigh x = { s with
      osctrim := trimOf s.cfg (s.cal.cand j)
      cal := { s.scoreCand x with idx := BitVec.ofNat 3 j }
      trace := s.trace ++ [.trimWrite (trimOf s.cfg (s.cal.cand j)), .measRequest] }) ∨
    (s.cal.nextCand s.cfg.k (s.cal.idx.toNat + 1) = none ∧
      s.stepNeigh x = (s.setCal (s.scoreCand x)).finishPass) := by
  unfold State.stepNeigh
  cases h : s.cal.nextCand s.cfg.k (s.cal.idx.toNat + 1) with
  | none => exact .inr ⟨rfl, rfl⟩
  | some j => exact .inl ⟨j, rfl, by simp [State.setCal, State.probe, State.applyTrim, State.emit]⟩

end Sys2Proof.Machine
end

