-- ==== Sys2Proof/Laws/Encoding.lean ====
section
/-! SUPPORT. The small lemmas of the encoding: the two bytes of a 16-bit operand, and the lookup of an opcode
byte. -/

namespace Sys2Proof

theorem lowByte_u16le (lo hi : Byte) : lowByte (u16le lo hi) = lo := by
  unfold lowByte u16le
  apply BitVec.eq_of_getLsbD_eq
  intro i hi
  simp only [BitVec.getLsbD_extractLsb', BitVec.getLsbD_append]
  simp [hi]

theorem highByte_u16le (lo hi : Byte) : highByte (u16le lo hi) = hi := by
  unfold highByte u16le
  apply BitVec.eq_of_getLsbD_eq
  intro i hi
  simp only [BitVec.getLsbD_extractLsb', BitVec.getLsbD_append]
  simp [hi]

theorem u16le_bytes (x : Half) : u16le (lowByte x) (highByte x) = x := by
  unfold lowByte highByte u16le
  apply BitVec.eq_of_getLsbD_eq
  intro i hi
  rw [BitVec.getLsbD_append]
  split
  · rename_i h
    simp [h]
  · rename_i h
    rw [BitVec.getLsbD_extractLsb']
    have h8 : i - 8 < 8 := by omega
    have hs : 8 + (i - 8) = i := by omega
    simp [h8, hs]

/-- `u16le(p) = p[0] + 256 * p[1]` (R66). -/
theorem u16le_toNat (lo hi : Byte) : (u16le lo hi).toNat = lo.toNat + 256 * hi.toNat := by
  have h := lo.isLt
  unfold u16le
  rw [BitVec.toNat_append, ← Nat.shiftLeft_add_eq_or_of_lt (by omega), Nat.shiftLeft_eq]
  omega

/-- The table finds each row by its own opcode byte (R92). -/
theorem Opcode.ofByte_code (o : Opcode) : Opcode.ofByte o.code = some o := by
  cases o <;> decide

/-- What the table finds has that opcode byte (R92). -/
theorem Opcode.code_of_ofByte {b : Byte} {o : Opcode} (h : Opcode.ofByte b = some o) : o.code = b := by
  simpa using List.find?_some h

/-- No two rows share an opcode byte (R92). -/
theorem Opcode.code_injective {o o' : Opcode} (h : o.code = o'.code) : o = o' := by
  have := Opcode.ofByte_code o
  rw [h, Opcode.ofByte_code] at this
  exact (Option.some.inj this).symm

/-! ### The formats -/

theorem formatP0_eq_some {i j : Instr} {p : List Byte} : formatP0 i p = some j ↔ p = [] ∧ j = i := by
  cases p <;> simp [formatP0, eq_comm]

theorem formatP1_eq_some {f : Byte → Instr} {j : Instr} {p : List Byte} :
    formatP1 f p = some j ↔ ∃ a, p = [a] ∧ j = f a := by
  unfold formatP1
  split
  · simp [eq_comm]
  · simp_all

theorem formatP2_eq_some {f : Byte → Byte → Instr} {j : Instr} {p : List Byte} :
    formatP2 f p = some j ↔ ∃ a b, p = [a, b] ∧ j = f a b := by
  unfold formatP2
  split
  · simp [eq_comm]
  · simp_all

theorem formatP7_eq_some {f : LineCoding → Instr} {j : Instr} {p : List Byte} :
    formatP7 f p = some j ↔ ∃ l : LineCoding, p = l.bytes ∧ j = f l := by
  unfold formatP7
  split
  · rename_i a b c d e g h
    constructor
    · intro hj
      exact ⟨⟨a, b, c, d, e, g, h⟩, rfl, by simpa [eq_comm] using hj⟩
    · rintro ⟨⟨⟩, hl, rfl⟩
      simp_all [LineCoding.bytes]
  · rename_i hne
    constructor
    · simp
    · rintro ⟨l, hl, -⟩
      exact absurd hl (by simpa [LineCoding.bytes] using hne l.d0 l.d1 l.d2 l.d3 l.stopBits l.parity l.dataBits)

/-- An operation decoded from a payload belongs to its opcode's row and carries that payload (R99 to R101). -/
theorem Opcode.operands_eq_some {o : Opcode} {p : List Byte} {i : Instr} (h : o.operands p = some i) :
    i.opcode = o ∧ i.payload = p := by
  cases o <;> simp only [Opcode.operands, formatP0_eq_some, formatP1_eq_some, formatP2_eq_some,
    formatP7_eq_some, Option.some.injEq] at h
  case pollHw | meas | setControlLineState =>
    obtain ⟨a, b, rfl, rfl⟩ := h
    simp [Instr.opcode, Instr.payload, lowByte_u16le, highByte_u16le]
  case setLineCoding | pins | rdreg =>
    obtain ⟨a, rfl, rfl⟩ := h
    simp [Instr.opcode, Instr.payload]
  case usbOut =>
    subst h
    simp [Instr.opcode, Instr.payload]
  all_goals
    obtain ⟨rfl, rfl⟩ := h
    simp [Instr.opcode, Instr.payload]

/-- The one operand whose length is not fixed (R90). -/
theorem wellFormed_usbOut (data : List Byte) :
    (Instr.usbOut data).wellFormed = decide (data.length ≤ 255) := rfl

/-- Decoding a packet of a known opcode with the right length (R94). -/
theorem decode_packet (o : Opcode) (payload : List Byte) (i : Instr) (hl : payload.length ≤ 255)
    (h : o.operands payload = some i) :
    decode (o.code :: BitVec.ofNat 8 payload.length :: payload) = .ok i := by
  have e : payload.length = (BitVec.ofNat 8 payload.length).toNat := by
    rw [BitVec.toNat_ofNat, Nat.mod_eq_of_lt (by omega)]
  simp only [decode]
  rw [if_pos e, Opcode.ofByte_code]
  simp [h]

end Sys2Proof
end

