-- ==== Sys2Proof/Laws/PerInstr.lean ====
section
/-! SUPPORT. Statements made of every operation, one lemma per constructor. -/

namespace Sys2Proof.Laws

/-- The packet of a well-formed operation has the form of 30_encoding.md R90: its opcode's byte, a length byte
that counts the payload, and the payload. -/
def PacketForm.Statement (i : Instr) : Prop :=
  i.wellFormed = true →
    ∃ len : Byte, encode i = i.opcode.code :: len :: i.payload ∧ i.payload.length = len.toNat

/-- From the payload's bound alone. -/
theorem packetForm_of_length (i : Instr) (h : i.payload.length ≤ 255) : PacketForm.Statement i := fun _ =>
  ⟨BitVec.ofNat 8 i.payload.length, rfl, by rw [BitVec.toNat_ofNat, Nat.mod_eq_of_lt (by omega)]⟩

theorem PacketForm.reset : PacketForm.Statement .reset := packetForm_of_length _ (by decide)
theorem PacketForm.poll : PacketForm.Statement .poll := packetForm_of_length _ (by decide)
theorem PacketForm.pollHw (flags rxdata : Byte) : PacketForm.Statement (.pollHw flags rxdata) :=
  packetForm_of_length _ (by simp [Instr.payload])
theorem PacketForm.busReset : PacketForm.Statement .busReset := packetForm_of_length _ (by decide)
theorem PacketForm.meas (x : Half) : PacketForm.Statement (.meas x) :=
  packetForm_of_length _ (by simp [Instr.payload])
theorem PacketForm.usbOut (data : List Byte) : PacketForm.Statement (.usbOut data) := fun h =>
  packetForm_of_length (.usbOut data) (by simpa [Instr.wellFormed, Instr.payload] using h) h
theorem PacketForm.usbInReady : PacketForm.Statement .usbInReady := packetForm_of_length _ (by decide)
theorem PacketForm.setLineCoding (l : LineCoding) : PacketForm.Statement (.setLineCoding l) :=
  packetForm_of_length _ (by simp [Instr.payload, LineCoding.bytes])
theorem PacketForm.getLineCoding : PacketForm.Statement .getLineCoding := packetForm_of_length _ (by decide)
theorem PacketForm.setControlLineState (v : Half) : PacketForm.Statement (.setControlLineState v) :=
  packetForm_of_length _ (by simp [Instr.payload])
theorem PacketForm.pins (p : Byte) : PacketForm.Statement (.pins p) :=
  packetForm_of_length _ (by simp [Instr.payload])
theorem PacketForm.tick : PacketForm.Statement .tick := packetForm_of_length _ (by decide)
theorem PacketForm.rdreg (n : Byte) : PacketForm.Statement (.rdreg n) :=
  packetForm_of_length _ (by simp [Instr.payload])

end Sys2Proof.Laws
end

