-- ==== Sys2Proof/Laws/Queue.lean ====
section
/-! SUPPORT. The bytes waiting in a ring, as a list (20_memory.md R77): its length, what it depends on, and how
each index update and the copy into the extension region show in it. -/

namespace Sys2Proof.Machine

/-- As many bytes wait as the occupancy says (R151). -/
@[simp] theorem Ring.contents_length (r : Ring) (cap : Nat) : (r.contents cap).length = r.used cap := by
  simp [Ring.contents]

/-- The `i`-th oldest byte. -/
theorem Ring.contents_getElem (r : Ring) (cap i : Nat) (h : i < (r.contents cap).length) :
    (r.contents cap)[i] = Memory.read r.mem ((slot cap r.rd + i) % cap) := by
  simp [Ring.contents]

/-- Only the occupied cells matter (R52 item 5). -/
theorem Ring.contents_congr {r r' : Ring} {cap : Nat} (hrd : r'.rd = r.rd) (hwr : r'.wr = r.wr)
    (hm : ∀ i < r.used cap, Memory.read r'.mem ((slot cap r.rd + i) % cap) =
      Memory.read r.mem ((slot cap r.rd + i) % cap)) : r'.contents cap = r.contents cap := by
  have hu : r'.used cap = r.used cap := by simp [Ring.used, hrd, hwr]
  unfold Ring.contents
  rw [hu, hrd]
  exact List.map_congr_left fun i hi => hm i (List.mem_range.1 hi)

/-- The `i`-th occupied cell is not the cell at `wr`, from the slots alone. -/
theorem occupied_ne_write {cap a b i : Nat} (ha : a < cap) (hb : b < cap)
    (hi : i < (b + cap - a) % cap) : (a + i) % cap ≠ b := by
  have hc : (b + cap - a) % cap = if a ≤ b then b - a else b + cap - a := by
    split
    · rw [show b + cap - a = (b - a) + cap by omega, Nat.add_mod_right, Nat.mod_eq_of_lt (by omega)]
    · exact Nat.mod_eq_of_lt (by omega)
  rw [hc] at hi
  have hm : (a + i) % cap = if a + i < cap then a + i else a + i - cap := by
    split
    · exact Nat.mod_eq_of_lt ‹_›
    · rw [Nat.mod_eq_sub_mod (by omega), Nat.mod_eq_of_lt (by split at hi <;> omega)]
  rw [hm]
  split at hi <;> split <;> omega

/-- Occupancy after the write index moves on by one with a slot free (R152). -/
theorem Ring.used_push {r : Ring} {cap : Nat} {m : Memory} (h : cap ∈ capacities) (hf : r.free cap ≠ 0) :
    (Ring.mk m r.rd (advance cap r.wr 1)).used cap = r.used cap + 1 := by
  have h1 := Ring.used_eq h r
  have h2 := slot_lt h r.wr
  have h3 := slot_lt h r.rd
  have hf' : r.used cap < cap - 1 := by unfold Ring.free at hf; omega
  rw [Ring.used_eq h, slot_advance h]
  rw [h1] at hf' ⊢
  generalize slot cap r.wr = b at *
  generalize slot cap r.rd = a at *
  rcases capacity_cases h with h | h | h | h | h | h | h | h <;> subst h <;> omega

/-- Occupancy after the read index moves on by `n` occupied cells (R153, R164). -/
theorem Ring.used_skip {r : Ring} {cap n : Nat} {m : Memory} (h : cap ∈ capacities) (hn : n ≤ r.used cap) :
    (Ring.mk m (advance cap r.rd n) r.wr).used cap = r.used cap - n := by
  have h1 := Ring.used_eq h r
  have h2 := slot_lt h r.wr
  have h3 := slot_lt h r.rd
  rw [Ring.used_eq h, slot_advance h]
  rw [h1] at hn ⊢
  generalize slot cap r.wr = b at *
  generalize slot cap r.rd = a at *
  rcases capacity_cases h with h | h | h | h | h | h | h | h <;> subst h <;> omega

/-- Moving the read index on drops the oldest bytes (R153, R164). -/
theorem Ring.contents_skip {r : Ring} {cap n : Nat} (h : cap ∈ capacities) (hn : n ≤ r.used cap) :
    (r.skip cap n).contents cap = (r.contents cap).drop n := by
  have hu : (r.skip cap n).used cap = r.used cap - n := Ring.used_skip h hn
  refine List.ext_getElem (by simp [hu]) fun i h1 h2 => ?_
  rw [Ring.contents_getElem, List.getElem_drop, Ring.contents_getElem]
  show Memory.read r.mem ((slot cap (advance cap r.rd n) + i) % cap) = _
  rw [slot_advance h, Nat.mod_add_mod, Nat.add_assoc]

/-- A byte stored at `wr`, with a slot free, joins at the end (R152). -/
theorem Ring.contents_push {r : Ring} {cap : Nat} {b : Byte} (h : cap ∈ capacities)
    (hm : Memory.wf r.mem) (hf : r.free cap ≠ 0) :
    (Ring.mk (Memory.write r.mem (slot cap r.wr) b) r.rd (advance cap r.wr 1)).contents cap =
      r.contents cap ++ [b] := by
  have hu := Ring.used_push (m := Memory.write r.mem (slot cap r.wr) b) h hf
  have hw := slot_lt h r.wr
  have hr := slot_lt h r.rd
  refine List.ext_getElem (by simp [hu]) fun i h1 h2 => ?_
  rw [Ring.contents_getElem, List.getElem_append]
  have hi : i < r.used cap + 1 := by simpa [hu] using h1
  simp only [Memory.read_write _ _ _ _ hm, Ring.contents_length]
  split_ifs with hc hlt hlt
  · exact absurd hc (occupied_ne_write hr hw (by rw [← Ring.used_eq h]; exact hlt))
  · simp
  · rw [Ring.contents_getElem]
  · refine absurd ?_ hc
    have hi' : i = r.used cap := by omega
    subst hi'
    have hu2 := Ring.used_eq h r
    rw [hu2, Nat.add_mod_mod, show slot cap r.rd + (slot cap r.wr + cap - slot cap r.rd) =
      slot cap r.wr + cap by omega, Nat.add_mod_right, Nat.mod_eq_of_lt hw]

/-! ### The report's linear drain -/

/-- What the copy of R165 leaves in every cell, for a drain of `n` occupied cells. -/
theorem Ring.makeContiguous_spec {r : Ring} {cap n : Nat} (h : cap ∈ capacities)
    (hm : Memory.wf r.mem) (hn : n ≤ r.used cap) :
    Memory.wf (r.makeContiguous cap n).mem ∧
    (∀ size, Memory.within r.mem size → slot cap r.rd + n ≤ size → Memory.within (r.makeContiguous cap n).mem size) ∧
    ∀ a, Memory.read (r.makeContiguous cap n).mem a =
      if cap ≤ a ∧ a < slot cap r.rd + n then Memory.read r.mem (a - cap) else Memory.read r.mem a := by
  have h1 := Ring.used_lt h r
  have h2 := slot_lt h r.rd
  obtain ⟨hw, hb, hr⟩ := copyTail_spec r.mem cap (slot cap r.rd + n - cap) hm (by omega)
  refine ⟨hw, fun size hs hsz => ?_, fun a => ?_⟩
  · by_cases hc : cap ≤ slot cap r.rd + n
    · exact hb size hs (by omega)
    · have hz : slot cap r.rd + n - cap = 0 := by omega
      simpa [Ring.makeContiguous, hz] using hs
  · refine (hr a).trans ?_
    by_cases hc : cap ≤ a ∧ a < slot cap r.rd + n
    · rw [if_pos hc, if_pos (by omega)]
    · rw [if_neg hc, if_neg (by omega)]

/-- After the copy the linear drain yields the oldest `n` bytes (R164, R165, R168). -/
theorem Ring.linear_makeContiguous {r : Ring} {cap n : Nat} (h : cap ∈ capacities)
    (hm : Memory.wf r.mem) (hn : n ≤ r.used cap) :
    (r.makeContiguous cap n).linear cap n = (r.contents cap).take n := by
  have h1 := Ring.used_lt h r
  have h2 := slot_lt h r.rd
  refine List.ext_getElem (by simp [Ring.linear, hn]) fun i hi hi2 => ?_
  have hin : i < n := by simpa [Ring.linear] using hi
  rw [List.getElem_take, Ring.contents_getElem]
  simp only [Ring.linear, List.getElem_map, List.getElem_range, Ring.makeContiguous_rd]
  rw [(Ring.makeContiguous_spec h hm hn).2.2]
  split_ifs with hc
  · congr 1
    rw [Nat.mod_eq_sub_mod hc.1, Nat.mod_eq_of_lt (by omega)]
  · congr 1
    rw [Nat.mod_eq_of_lt (by omega)]

/-- The copy touches no occupied cell. -/
theorem Ring.contents_makeContiguous {r : Ring} {cap n : Nat} (h : cap ∈ capacities)
    (hm : Memory.wf r.mem) (hn : n ≤ r.used cap) :
    (r.makeContiguous cap n).contents cap = r.contents cap := by
  refine Ring.contents_congr rfl rfl fun i _ => ?_
  have hlt : (slot cap r.rd + i) % cap < cap := Nat.mod_lt _ (by have := capacity_two_le h; omega)
  rw [(Ring.makeContiguous_spec h hm hn).2.2, if_neg (by omega)]

end Sys2Proof.Machine
end

