-- ==== Sys2Proof/Tests/Slice0.lean ====
section
/-! SUPPORT. Small tests of the model: decoded words written out from 30_encoding.md, one or two steps per
operation with the results 95_test_vectors.md gives, and for every statement a state and operands that meet its
hypotheses. -/

namespace Sys2Proof.Tests

open Sys2Proof Sys2Proof.Machine

/-! ### Helpers -/

/-- The state after one packet; `none` if the step stops. -/
def deliver (p : List Byte) (s : State) : Option State :=
  match step (s.givePacket p) with
  | .next t => some t
  | .fault _ => none
  | .refused _ => none

/-- The answer to one packet. -/
def answerTo (p : List Byte) (s : State) : Option Answer := (deliver p s).bind State.answer

/-- The state after one operation. -/
def after (i : Instr) (s : State) : State :=
  match exec i s with
  | .next t => t
  | .fault _ => s
  | .refused _ => s

/-- The tiny machine of the vectors (CFG-T), right after RESET. -/
def tiny : State := State.resetOf Cfg.tiny 0xFF

/-- The tiny machine with a stored trim of 0x64 (V4.6, V7.1). -/
def tiny64 : State := State.resetOf Cfg.tiny 0x64

/-- The hardware variant (CFG-HW), right after RESET. -/
def hw : State := State.resetOf Cfg.hw 0xFF

/-- CFG-T with one trim bit, so that a pass is three steps and the candidates. -/
def Cfg.oneBit : Cfg :=
  { Params.tiny with trimBits := 1, defaultTrim := 0, splitProbe := 0, valid := by decide }

/-- CFG-T with a split trim range of two bits. -/
def Cfg.splitTwo : Cfg :=
  { Params.tiny with trimBits := 2, defaultTrim := 2, splitProbe := 1, split := true, valid := by decide }

/-- CFG-T with the clear-to-send gate built in. -/
def Cfg.ctsGated : Cfg := { Params.tiny with swTxCtsGate := true, valid := by decide }

/-- The tiny machine at the fastest bit rate, one tick per bit. -/
def fast : State := { tiny with lc := ⟨0x40, 0x42, 0x0F, 0, 0, 0, 8⟩, ocr := 0, first := 1 }

/-- The tiny machine at four ticks per bit (V3.7). -/
def four : State := { tiny with lc := ⟨0x90, 0xD0, 0x03, 0, 0, 0, 8⟩, ocr := 3, first := 5 }

/-- A calibration pass waiting for a measurement. -/
def inPass (s : State) (c : Cal) (trim : Byte) : State := { s with cal := c, osctrim := trim }

/-! ### Well-formedness -/

/-- The length byte is eight bits: 256 data bytes have no packet (R90). -/
theorem test_usbOut_too_long_refused : (Instr.usbOut (List.replicate 256 0)).wellFormed = false := by
  rw [wellFormed_usbOut, List.length_replicate]
  decide

theorem test_usbOut_longest_accepted : (Instr.usbOut (List.replicate 255 0)).wellFormed = true := by
  rw [wellFormed_usbOut, List.length_replicate]
  decide

/-! ### Decoding, words written out from R91 and R92 -/

theorem test_decode_reset : decode [0b00000000, 0b00000000] = .ok .reset := by decide
theorem test_decode_poll : decode [0b00000001, 0b00000000] = .ok .poll := by decide
theorem test_decode_pollHw :
    decode [0b00000010, 0b00000010, 0b00000011, 0b01110111] = .ok (.pollHw 0x03 0x77) := by decide
theorem test_decode_busReset : decode [0b00010000, 0b00000000] = .ok .busReset := by decide
/-- V1.11: `11 02 DE 03` is MEAS of 990. -/
theorem test_decode_meas :
    decode [0b00010001, 0b00000010, 0b11011110, 0b00000011] = .ok (.meas 990) := by decide
theorem test_decode_usbOut :
    decode [0b00010010, 0b00000011, 0b00000001, 0b00000010, 0b00000011] = .ok (.usbOut [1, 2, 3]) := by decide
theorem test_decode_usbOut_empty : decode [0b00010010, 0b00000000] = .ok (.usbOut []) := by decide
theorem test_decode_usbInReady : decode [0b00010011, 0b00000000] = .ok .usbInReady := by decide
theorem test_decode_setLineCoding :
    decode [0b00100000, 0b00000111, 0x00, 0xC2, 0x01, 0x00, 0x02, 0x04, 0x05] =
      .ok (.setLineCoding
        { d0 := 0x00, d1 := 0xC2, d2 := 0x01, d3 := 0x00, stopBits := 2, parity := 4, dataBits := 5 }) := by
  decide
theorem test_decode_getLineCoding : decode [0b00100001, 0b00000000] = .ok .getLineCoding := by decide
theorem test_decode_setControlLineState :
    decode [0b00100010, 0b00000010, 0b00000011, 0b00000001] = .ok (.setControlLineState 0x0103) := by decide
theorem test_decode_pins : decode [0b00110000, 0b00000001, 0b00000010] = .ok (.pins 2) := by decide
theorem test_decode_tick : decode [0b00110001, 0b00000000] = .ok .tick := by decide
theorem test_decode_rdreg : decode [0b01000000, 0b00000001, 0b00011101] = .ok (.rdreg 0x1D) := by decide

/-- V6.1, V6.3, V6.8, R94. -/
theorem test_decode_rejects :
    decode [0x05, 0x00] = .error .reservedOpcode ∧ decode [0x01, 0x01, 0x00] = .error .wrongLength ∧
    decode [0x13, 0x01, 0x00] = .error .wrongLength ∧ decode [0x11, 0x02, 0x00] = .error .notAPacket ∧
    decode [0x00] = .error .notAPacket := by decide

/-- The header word is `opcode * 256 + len` (R91), the payload follows from bit 16 on. -/
theorem test_table_word :
    decodeTableWord 16 0x3100 = some .tick ∧
    decodeTableWord 32 0x03DE1102 = some (.meas 990) ∧
    decodeTableWord 24 0x1C4001 = some (.rdreg 0x1C) := by decide

/-! ### Steps, results from 95_test_vectors.md -/

/-- V7.4: RESET in the middle of a pass and of a byte. -/
def busy : State :=
  { tiny64 with
    tx := ⟨false, 0x20B, 10, 2, false⟩, dtr := true, osctrim := 128, zlpPending := true, usbAccept := false,
    cal := ⟨.search, 100, 0, 0, 128, 128, 0, 0, 0, 0⟩, rbOut := ⟨[(0, 1), (1, 2)], 1, 2⟩, ovfOut := true }

theorem test_reset_in_the_middle :
    (deliver [0x00, 0x00] busy).map (fun t => (t.tx, t.cal.phase, t.osctrim, t.nv)) =
      some (⟨true, 0x3FF, 0, 0, true⟩, .idle, 0x64, 0x64) ∧
    (deliver [0x00, 0x00] busy).map (fun t => (t.dtr, t.rbOut, t.usbAccept, t.ovfOut)) =
      some (false, ⟨[(0, 1), (1, 2)], 0, 0⟩, true, false) := by decide

/-- V7.3: `TRIM_BITS = 7`, `nv = 0xE4`. -/
def Cfg.sevenBits : Cfg := { Params.tiny with trimBits := 7, defaultTrim := 0, valid := by decide }

theorem test_reset_masks_trim :
    (deliver [0x00, 0x00] { State.resetOf Cfg.sevenBits 0 with nv := 0xE4 }).map State.osctrim = some 0x64 := by
  decide

/-- V3.23, V2.2: POLL takes 0x55 and builds its frame; `txd` is not driven yet. -/
theorem test_poll_builds_frame :
    (deliver [0x01, 0x00] { tiny with rbOut := ⟨[(0, 0x55)], 0, 1⟩ }).map
      (fun t => (t.tx.frame, t.tx.left, t.tx.cnt, t.tx.idle, t.tx.txd, t.rbOut.rd)) =
      some (0x155, 11, 104, false, true, 1) := by decide

/-- V3.23: with the clear-to-send gate built in and `cts = 0`, POLL leaves the byte waiting. -/
theorem test_poll_held_by_cts :
    (deliver [0x01, 0x00] { State.resetOf Cfg.ctsGated 0xFF with
      cts := false, rbOut := ⟨[(0, 0x55)], 0, 1⟩ }).map (fun t => (t.tx.idle, t.usedOut)) = some (true, 1) := by
  decide

/-- V5.5: receive and transmit in one POLL_HW. -/
theorem test_pollHw_both_ways :
    (deliver [0x02, 0x02, 0x05, 0x5B] { hw with
      rbIn := ⟨[(0, 0x5A)], 0, 1⟩, rbOut := ⟨[(0, 0x30), (1, 0x31)], 1, 2⟩ }).map
      (fun t => (t.answer, t.rbIn, t.rbOut.rd, t.trace.getLast?)) =
      some (some ⟨.ok, [0x31]⟩, ⟨[(0, 0x5A), (1, 0x5B)], 0, 2⟩, 2, some (.periphTx 0x31)) := by decide

/-- V5.6: the byte that finds 127 bytes waiting is lost; STATUS reads 0x8B. -/
theorem test_pollHw_overflow :
    ((deliver [0x02, 0x02, 0x01, 0xEE] { hw with rbIn := ⟨[], 0, 127⟩, rts := false }).map
      (fun t => (t.ovfIn, t.rbIn.wr, t.status))) = some (true, 127, 0x8B) := by decide

/-- V1.11: BUS_RESET from rest, then in mid-pass. -/
theorem test_busReset_starts_pass :
    (deliver [0x10, 0x00] (State.resetOf Cfg.tiny 90)).map
      (fun t => (t.cal.phase, t.cal.saved, t.osctrim, t.trace.getLast?)) =
      some (.base, 90, 90, some .measRequest) := by decide

theorem test_busReset_in_mid_pass :
    (deliver [0x10, 0x00] (inPass (State.resetOf Cfg.tiny 90) ⟨.search, 90, 10, 0, 64, 64, 0, 0, 0, 0⟩ 64)).map
      (fun t => (t.cal.phase, t.cal.saved, t.osctrim, t.trace.drop 1)) =
      some (.base, 90, 90, [.trimWrite 90, .measRequest]) := by decide

/-- V1.11: MEAS of 1028 at trim 128 with step 128 goes down to 64. -/
theorem test_meas_halves :
    (deliver [0x11, 0x02, 0x04, 0x04] (inPass tiny ⟨.search, 90, 10, 0, 128, 128, 0, 0, 0, 0⟩ 128)).map
      (fun t => (t.cal.phase, t.cal.trial, t.cal.step, t.osctrim)) = some (.search, 64, 64, 64) := by decide

/-- V1.1: the last candidate, 101 with 1001, is not better than 100 with 1000; the pass ends and stores 100. -/
theorem test_meas_finishes :
    (deliver [0x11, 0x02, 0xE9, 0x03] (inPass tiny ⟨.neigh, 128, 28, 0, 99, 1, 99, 100, 0, 4⟩ 101)).map
      (fun t => (t.cal.phase, t.osctrim, t.nv, t.trace.drop 1)) =
      some (.idle, 100, 0x64, [.trimWrite 100, .nvWrite 100]) := by decide

/-- V2.2. -/
theorem test_usbOut_stores :
    (deliver [0x12, 0x02, 0x10, 0x11] tiny).map
      (fun t => (t.answer, t.rbOut.mem, t.rbOut.wr, t.freeOut, t.usbAccept)) =
      some (some ⟨.ok, []⟩, [(0, 0x10), (1, 0x11)], 2, 5, true) := by decide

/-- V2.3: longer than `PKT_OUT`, STALL whatever the gate. -/
theorem test_usbOut_stalls :
    answerTo [0x12, 0x03, 0x01, 0x02, 0x03] { tiny with usbAccept := false } = some ⟨.stall, []⟩ := by decide

/-- R165, program P4: a full report that wraps, from `rd = 6`, through the extension region. -/
theorem test_usbInReady_wraps :
    (deliver [0x13, 0x00] { tiny with
      rbIn := ⟨[(0, 0xB2), (1, 0xB3), (6, 0xB0), (7, 0xB1)], 6, 2⟩ }).map
      (fun t => (t.answer, t.rbIn.rd, t.zlpPending, t.rbIn.mem.drop 4)) =
      some (some ⟨.ok, [0xB0, 0xB1, 0xB2, 0xB3]⟩, 2, true, [(8, 0xB2), (9, 0xB3)]) := by decide

/-- V2.5, V6.7: the answer is the two bytes `01 00`. -/
theorem test_usbInReady_empty : (answerTo [0x13, 0x00] tiny).map Answer.packet = some [0x01, 0x00] := by decide

/-- V3.16: 1719 rounded up from 1718.75; V3.15: a rate of 0. -/
def Cfg.clock16M5 : Cfg := { Params.sw with timerClock := 16500000, valid := by decide }

theorem test_setLineCoding_rounds :
    (deliver [0x20, 0x07, 0x80, 0x25, 0, 0, 0, 0, 8] (State.resetOf Cfg.clock16M5 0xFF)).map
      (fun t => (t.ocr, t.first)) = some (1718, 2148) := by decide

theorem test_setLineCoding_rate_zero :
    (deliver [0x20, 0x07, 0, 0, 0, 0, 2, 4, 5] tiny).map (fun t => (t.ocr, t.first)) =
      some (65535, 81920) := by decide

/-- V4.2: the raw bytes come back. -/
theorem test_getLineCoding :
    (answerTo [0x21, 0x00] { tiny with lc := ⟨0, 0, 0, 0, 2, 4, 5⟩ }).map Answer.packet =
      some [0x00, 0x07, 0, 0, 0, 0, 2, 4, 5] := by decide

/-- V4.4. -/
theorem test_setControlLineState :
    (deliver [0x22, 0x02, 0x03, 0x00] tiny).map State.dtr = some true ∧
    (deliver [0x22, 0x02, 0x02, 0x00] { tiny with dtr := true }).map State.dtr = some false := by decide

/-- V3.27. -/
theorem test_pins :
    (deliver [0x30, 0x01, 0x02] tiny).map (fun t => (t.pinRxd, t.cts)) = some (false, true) ∧
    (deliver [0x30, 0x01, 0xFD] tiny).map (fun t => (t.pinRxd, t.cts)) = some (true, false) := by decide

/-- V3.24: the TICK that sees the edge. -/
theorem test_tick_edge :
    (deliver [0x31, 0x00] { four with pinRxd := false }).map (fun t => (t.rx.left, t.rx.cnt, t.rx.prev)) =
      some (8, 5, false) := by decide

/-- V2.9: the eighth sample assembles 0xC7, which a full buffer drops with nothing recorded. -/
theorem test_tick_drops_when_full :
    (deliver [0x31, 0x00] { four with
      rbIn := ⟨[(0, 0xC0)], 0, 7⟩, rts := false, rx := ⟨1, 1, 0x8E, true⟩ }).map
      (fun t => (t.rx.shift, t.rbIn.wr, t.rbIn.mem, t.ovfIn)) = some (0xC7, 7, [(0, 0xC0)], false) := by decide

/-- V4.6: register by register in the reset state with `nv = 0x64`. -/
theorem test_rdreg_map :
    (List.range 0x1D).map (fun n => (answerTo [0x40, 0x01, BitVec.ofNat 8 n] tiny64).map Answer.bytes) =
      [0x0F, 0x00, 0x00, 0x07, 0x00, 0x07, 0x00, 0x00, 0x00, 0x00, 0x64, 0x64, 0x00, 0x67, 0x00, 0x82, 0x00, 0x00,
       0x80, 0x25, 0x00, 0x00, 0x00, 0x00, 0x08, 0x00, 0x00, 0x00, 0x0F].map (fun x => some [x]) := by decide

/-- V4.6, V6.9. -/
theorem test_rdreg_reserved : answerTo [0x40, 0x01, 0x1D] tiny64 = some ⟨.stall, []⟩ := by decide

/-! ### The interface -/

/-- `State.reset` is a state RESET leaves: RESET again changes nothing but the trace. -/
theorem test_reset_is_reset :
    (deliver [0x00, 0x00] State.reset).map (fun t => { t with trace := [] }) =
      some { State.reset with trace := [] } := by decide

/-- The reset memories are in canonical form. -/
theorem test_reset_memory_wf : Memory.wf State.reset.rbIn.mem ∧ Memory.wf State.reset.rbOut.mem := by decide

/-- The word of PINS 02 placed where the next step takes it runs as the first step. -/
theorem test_withFetchWord :
    (match step (State.reset.withFetchWord 24 0x023001) with
     | .next t => some (t.pinRxd, t.cts)
     | _ => none) = some (false, true) := by decide

/-! ### Witnesses: states and operands that meet each statement's hypotheses

Every `witness_<Name>` belongs to `Obligations.<Name>`; where the statement has several clauses, there is a case for
each, at the boundary of its range. A premise `exec i s = .next t` is met by `t = after i s`. -/

/-- CFG-T with `f` free slots in OUT and the gate as given. -/
def withOut (f : Nat) (gate : Bool) : State :=
  { tiny with rbOut := ⟨[], 0, BitVec.ofNat 8 (7 - f)⟩, usbAccept := gate }

/-- CFG-T with `f` free slots in IN and the gate as given. -/
def withIn (f : Nat) (gate : Bool) : State :=
  { tiny with rbIn := ⟨[], 0, BitVec.ofNat 8 (7 - f)⟩, rts := gate }

theorem witness_DecodeOfEncode :
    (Instr.usbOut (List.replicate 255 0xFF)).wellFormed = true ∧ (Instr.usbOut []).wellFormed = true ∧
    (Instr.meas 0xFFFF).wellFormed = true := by
  refine ⟨?_, rfl, rfl⟩
  rw [wellFormed_usbOut, List.length_replicate]
  decide

theorem witness_EncodeOfDecode : decode [0x11, 0x02, 0xFF, 0x80] = .ok (.meas 0x80FF) := by decide

/-- A reserved opcode between two assigned ones, and the last one, with the payload their length byte says. -/
theorem witness_ReservedOpcodeStalls :
    (tiny.givePacket [0x03, 0x00]).port = [[0x03, 0x00]] ∧ (0x03 : Byte) ∉ assignedOpcodes ∧
    (tiny.givePacket [0xFF, 0x01, 0x07]).port = [[0xFF, 0x01, 0x07]] ∧ (0xFF : Byte) ∉ assignedOpcodes := by
  decide

/-- One packet for each of (a), (b) and the two halves of (c). -/
theorem witness_MalformedPacketStalls :
    ((0x30, 1) ∈ fixedLengths ∧ (tiny.givePacket [0x30, 0x02, 3, 0]).port = [[0x30, 0x02, 3, 0]]) ∧
    ((tiny.givePacket [0x12, 0x03, 1, 2, 3]).port = [[0x12, 0x03, 1, 2, 3]] ∧ tiny.cfg.pktOut = 2) ∧
    ((hw.givePacket [0x01, 0x00]).port = [[0x01, 0x00]] ∧ hw.cfg.backend = .hardware) ∧
    ((tiny.givePacket [0x02, 0x02, 0, 0]).port = [[0x02, 0x02, 0, 0]] ∧ tiny.cfg.backend = .software) := by
  decide

/-- Too short; one payload byte short; one too many. -/
theorem witness_NonPacketRefused :
    ([0x00] : List Byte).length < 2 ∧
    (([0x11, 0x02, 0x00] : List Byte)[1]? = some 2 ∧ ([0x11, 0x02, 0x00] : List Byte).length ≠ 4) ∧
    (([0x00, 0x00, 0x00] : List Byte)[1]? = some 0 ∧ ([0x00, 0x00, 0x00] : List Byte).length ≠ 2) := by
  decide

theorem witness_StepRunsDecodedOperation :
    ((tiny.givePacket [0x31, 0x00]).port = [[0x31, 0x00]] ∧ decode [0x31, 0x00] = .ok .tick) ∧
    tiny.port = [] := by decide

/-- A NAK and a STALL. -/
theorem witness_RefusalChangesNothing :
    (exec (.meas 5) tiny = .next (after (.meas 5) tiny) ∧
      (after (.meas 5) tiny).answer = some ⟨.nak, []⟩) ∧
    (exec .poll hw = .next (after .poll hw) ∧ (after .poll hw).answer = some ⟨.stall, []⟩) :=
  ⟨⟨rfl, rfl⟩, ⟨rfl, rfl⟩⟩

/-- Every NAK of R260 and an operation next to it that is answered OK. -/
theorem witness_RefusalsAreExactlyListed_nak :
    (after (.meas 5) tiny).answer.map Answer.status = some .nak ∧
    (after (.meas 5) (inPass tiny ⟨.base, 0, 0, 0, 0, 0, 0, 0, 0, 0⟩ 0)).answer.map Answer.status = some .ok ∧
    (after (.usbOut [1, 2]) (withOut 1 false)).answer.map Answer.status = some .nak ∧
    (after (.usbOut [1, 2]) (withOut 2 true)).answer.map Answer.status = some .ok ∧
    (after .usbInReady tiny).answer.map Answer.status = some .nak ∧
    (after .usbInReady { tiny with zlpPending := true }).answer.map Answer.status = some .ok ∧
    (after .usbInReady (withIn 6 true)).answer.map Answer.status = some .ok := by decide

/-- Every STALL of R260 at its boundary. -/
theorem witness_RefusalsAreExactlyListed_stall :
    (after (.usbOut [1, 2, 3]) (withOut 1 false)).answer.map Answer.status = some .stall ∧
    (after .poll hw).answer.map Answer.status = some .stall ∧
    (after .tick hw).answer.map Answer.status = some .stall ∧
    (after (.pollHw 0 0) tiny).answer.map Answer.status = some .stall ∧
    (after (.rdreg 0x1C) tiny).answer.map Answer.status = some .ok ∧
    (after (.rdreg 0x1D) tiny).answer.map Answer.status = some .stall := by decide

/-- A buffer that wraps, its gate closed, and a step that drains it. -/
theorem witness_StepKeepsBuffersAndGates :
    let s := ({ tiny with rbIn := ⟨[(0, 1), (7, 2)], 2, 0⟩, rts := false }).givePacket [0x13, 0x00]
    (match step s with
     | .next t => t.freeIn
     | _ => 0) = 5 ∧ s.BuffersOk ∧ s.FlowOk := by decide

/-- A transmitter at its last bit and a receiver at its last sample, before a TICK. -/
theorem witness_StepKeepsEngines :
    let s := ({ fast with tx := ⟨false, 0x3FF, 1, 1, true⟩, rx := ⟨1, 1, 0x8E, true⟩ }).givePacket [0x31, 0x00]
    (match step s with
     | .next t => some (t.tx.idle, t.rx.left)
     | _ => none) = some (true, 0) ∧ s.TimingOk ∧ s.tx.Ok s.cfg.invert ∧ s.rx.Ok ∧ s.cfg.backend = .software := by
  decide

/-- The base, split, search and neighbourhood phases. -/
def baseState : State := inPass tiny ⟨.base, 0x80, 0, 0, 0, 0, 0, 0, 0, 0⟩ 0x80
def splitState : State := inPass (State.resetOf Cfg.splitTwo 0xFF) ⟨.splitp, 2, 2, 0, 0, 0, 0, 0, 0, 0⟩ 1
def searchState : State := inPass tiny ⟨.search, 0x80, 28, 0, 128, 128, 0, 0, 0, 0⟩ 128
def lastSearchState : State := inPass tiny ⟨.search, 0x80, 28, 0, 99, 1, 0, 0, 0, 0⟩ 99
def neighState : State := inPass tiny ⟨.neigh, 0x80, 28, 0, 99, 1, 99, 99, 0xFFFF, 0⟩ 97
def lastNeighState : State := inPass tiny ⟨.neigh, 0x80, 28, 0, 99, 1, 99, 100, 0, 4⟩ 101
/-- The top edge (V1.4): candidate 2 is the last admissible one. -/
def edgeNeighState : State := inPass tiny ⟨.neigh, 0x80, 372, 0, 255, 1, 255, 254, 246, 2⟩ 255

theorem witness_calOk_base : baseState.CalOk := by
  refine ⟨by decide, by decide, by decide, ?_, ?_⟩ <;> intro h <;> exact absurd h (by decide)
theorem witness_calOk_split : splitState.CalOk := by
  refine ⟨by decide, by decide, by decide, ?_, ?_⟩ <;> intro h <;> exact absurd h (by decide)
theorem witness_calOk_search : searchState.CalOk := by
  refine ⟨by decide, by decide, by decide, fun _ => ⟨by decide, by decide, ⟨7, by decide, by decide⟩, by decide,
    by decide⟩, fun h => absurd h (by decide)⟩
theorem witness_calOk_lastSearch : lastSearchState.CalOk := by
  refine ⟨by decide, by decide, by decide, fun _ => ⟨by decide, by decide, ⟨0, by decide, by decide⟩, by decide,
    by decide⟩, fun h => absurd h (by decide)⟩
theorem witness_calOk_neigh : neighState.CalOk := by
  refine ⟨by decide, by decide, by decide, fun h => absurd h (by decide), fun _ => by decide⟩
theorem witness_calOk_lastNeigh : lastNeighState.CalOk := by
  refine ⟨by decide, by decide, by decide, fun h => absurd h (by decide), fun _ => by decide⟩
theorem witness_calOk_edgeNeigh : edgeNeighState.CalOk := by
  refine ⟨by decide, by decide, by decide, fun h => absurd h (by decide), fun _ => by decide⟩

theorem witness_StepKeepsCalibration :
    step (searchState.givePacket [0x11, 0x02, 0x04, 0x04]) = .next (after (.meas 1028) searchState) ∧
    (searchState.givePacket [0x11, 0x02, 0x04, 0x04]).CalOk := ⟨rfl, witness_calOk_search⟩

/-- Each element is written by an operation the statement names. -/
theorem witness_OnlyNamedOperationsWrite :
    (after (.setControlLineState 1) tiny).dtr ≠ tiny.dtr ∧
    (after (.pins 0) tiny).cts ≠ tiny.cts ∧ (after (.pins 2) tiny).pinRxd ≠ tiny.pinRxd ∧
    (after (.setLineCoding ⟨0, 0, 0, 0, 0, 0, 0⟩) tiny).ocr ≠ tiny.ocr ∧
    (after .usbInReady (withIn 3 true)).zlpPending ≠ (withIn 3 true).zlpPending ∧
    (after (.usbOut [1, 2]) (withOut 3 true)).usbAccept ≠ (withOut 3 true).usbAccept ∧
    (after .usbInReady (withIn 1 false)).rts ≠ (withIn 1 false).rts ∧
    (after .poll (withOut 6 true)).tx ≠ tiny.tx ∧
    (after .tick { fast with tx := ⟨false, 0x105, 11, 1, true⟩ }).tx.txd ≠ true ∧
    (after .tick { fast with pinRxd := false }).rx ≠ fast.rx := by decide

theorem witness_OnlyNamedOperationsWrite_rest :
    (after .busReset tiny).cal ≠ tiny.cal ∧ (after (.meas 1028) searchState).osctrim ≠ searchState.osctrim ∧
    (after (.meas 1001) lastNeighState).nv ≠ lastNeighState.nv ∧
    (after (.usbOut [1, 2]) (withOut 1 true)).ovfOut ≠ (withOut 1 true).ovfOut ∧
    (after (.pollHw 1 0xEE) { hw with rbIn := ⟨[], 0, 127⟩ }).ovfIn ≠ hw.ovfIn := by decide

theorem witness_OneWriterPerIndex :
    (after .tick { fast with rx := ⟨1, 1, 0x8E, true⟩ }).rbIn.wr ≠ fast.rbIn.wr ∧
    (after (.pollHw 1 0x5A) hw).rbIn.wr ≠ hw.rbIn.wr ∧
    (after .usbInReady (withIn 6 true)).rbIn.rd ≠ (withIn 6 true).rbIn.rd ∧
    (after (.usbOut [1]) tiny).rbOut.wr ≠ tiny.rbOut.wr ∧
    (after .poll (withOut 6 true)).rbOut.rd ≠ (withOut 6 true).rbOut.rd ∧
    (after (.pollHw 4 0) { hw with rbOut := ⟨[], 0, 1⟩ }).rbOut.rd ≠ hw.rbOut.rd ∧
    (after (.usbOut [1]) tiny).rbOut.mem ≠ tiny.rbOut.mem ∧
    (after .usbInReady { tiny with rbIn := ⟨[(0, 1)], 7, 1⟩ }).rbIn.mem ≠ [(0, 1)] := by decide

/-- A byte received into the last cell of `mem_in` under either backend; the wrapped tail in the first cell of the
extension region. -/
theorem witness_OneWriterPerIndex_cells :
    (let s := { fast with rbIn := ⟨[], 7, 7⟩, rx := ⟨1, 1, 0x8E, true⟩ }
     s.cfg.capIn = 8 ∧ Memory.read (after .tick s).rbIn.mem 7 ≠ Memory.read s.rbIn.mem 7) ∧
    (let s := { hw with rbIn := ⟨[], 127, 127⟩ }
     s.cfg.capIn = 128 ∧ Memory.read (after (.pollHw 1 0x5A) s).rbIn.mem 127 ≠ Memory.read s.rbIn.mem 127) ∧
    (let s := { tiny with rbIn := ⟨[(0, 1)], 7, 1⟩ }
     s.cfg.capIn = 8 ∧ Memory.read (after .usbInReady s).rbIn.mem 8 ≠ Memory.read s.rbIn.mem 8) := by decide

/-- The smallest and the largest capacity; empty and full. -/
theorem witness_OccupancyLaw :
    (2 ∈ capacities ∧ (⟨[], 1, 0⟩ : Ring).free 2 = 0) ∧
    (256 ∈ capacities ∧ (⟨[], 0, 255⟩ : Ring).free 256 = 0) ∧
    (8 ∈ capacities ∧ (⟨[], 7, 7⟩ : Ring).used 8 = 0) := by decide

theorem witness_RingRefinesQueue :
    8 ∈ capacities ∧ Memory.wf [(0, 0xB2), (7, 0xB1)] ∧
    ((⟨[(0, 0xB2), (7, 0xB1)], 7, 1⟩ : Ring).contents 8) = [0xB1, 0xB2] ∧
    (⟨[], 1, 0⟩ : Ring).enqueue 8 0x11 = none ∧ (⟨[], 3, 3⟩ : Ring).dequeue 8 = none := by decide

/-- Both gates at each edge of their bands. -/
theorem witness_GatesFollowHysteresis :
    (∀ x ∈ [(1, false), (2, false), (2, true), (4, false), (4, true), (5, true)],
      (withOut x.1 x.2).GatesOk ∧ (after .getLineCoding (withOut x.1 x.2)).freeOut = x.1) ∧
    (∀ x ∈ [(1, false), (2, false), (2, true), (3, false), (3, true), (4, true)],
      (withIn x.1 x.2).GatesOk ∧ (after .getLineCoding (withIn x.1 x.2)).freeIn = x.1) := by decide

theorem witness_UsbOutStoresPacket :
    (withOut 2 true).BuffersOk ∧ (withOut 2 true).GatesOk ∧ (withOut 2 true).usbAccept = true ∧
    ([0x10, 0x11] : List Byte).length ≤ (withOut 2 true).cfg.pktOut := by decide

/-- One byte, a wrapped full report, more than one report's worth. -/
theorem witness_ReportTakesOldestBytes :
    ((withIn 6 true).BuffersOk ∧ (withIn 6 true).usedIn = 1) ∧
    (let s := { tiny with rbIn := ⟨[(0, 0xB2), (1, 0xB3), (6, 0xB0), (7, 0xB1)], 6, 2⟩ }
     s.BuffersOk ∧ s.usedIn = s.cfg.pktIn) ∧
    ((withIn 0 false).BuffersOk ∧ (withIn 0 false).usedIn = 7) := by decide

theorem witness_EmptyReportGoesOutOnce :
    ({ tiny with zlpPending := true } : State).usedIn = 0 ∧
    ({ tiny with zlpPending := true } : State).zlpPending = true := by decide

/-- A TICK that completes a byte, a POLL_HW that receives one, a report. -/
theorem witness_InboundIsFifo :
    let s := { fast with rx := ⟨1, 1, 0x8E, true⟩ }
    (exec .tick s = .next (after .tick s) ∧ s.BuffersOk ∧ (after .tick s).waitingIn = [0xC7]) ∧
    (exec (.pollHw 1 0x5A) hw = .next (after (.pollHw 1 0x5A) hw) ∧ hw.BuffersOk ∧
      (after (.pollHw 1 0x5A) hw).waitingIn = [0x5A]) ∧
    (exec .usbInReady (withIn 6 true) = .next (after .usbInReady (withIn 6 true)) ∧ (withIn 6 true).BuffersOk) :=
  ⟨⟨rfl, by decide, by decide⟩, ⟨rfl, by decide, by decide⟩, ⟨rfl, by decide⟩⟩

/-- A packet accepted, a byte taken by POLL, a byte handed over by POLL_HW. -/
theorem witness_OutboundIsFifo :
    (exec (.usbOut [1, 2]) tiny = .next (after (.usbOut [1, 2]) tiny) ∧ tiny.BuffersOk ∧ tiny.GatesOk ∧
      (after (.usbOut [1, 2]) tiny).answer = some ⟨.ok, []⟩) ∧
    (exec .poll (withOut 6 true) = .next (after .poll (withOut 6 true)) ∧ (withOut 6 true).BuffersOk ∧
      (withOut 6 true).GatesOk) ∧
    (let s := { hw with rbOut := ⟨[(0, 0x30)], 0, 1⟩ }
     exec (.pollHw 4 0) s = .next (after (.pollHw 4 0) s) ∧ s.BuffersOk ∧ s.GatesOk ∧
      (after (.pollHw 4 0) s).answer = some ⟨.ok, [0x30]⟩) :=
  ⟨⟨rfl, by decide, by decide, by decide⟩, ⟨rfl, by decide, by decide⟩, ⟨rfl, by decide, by decide, by decide⟩⟩

/-- Two packets in, three bytes out. -/
theorem witness_OutboundStreamIsPreserved :
    let is : List Instr := [.usbOut [1, 2], .pollHw 4 0, .usbOut [3], .pollHw 4 0]
    hw.BuffersOk ∧ hw.GatesOk ∧ hw.cfg.backend = .hardware ∧ .reset ∉ is ∧ (runOps is hw).isSome = true ∧
    hostBytes is hw = [1, 2, 3] ∧ peripheralBytes is hw = [1, 2] := by decide

/-- Two good bytes and one with an error flag; a run that overflows. -/
theorem witness_InboundStreamIsPreserved :
    let is : List Instr := [.pollHw 1 7, .pollHw 3 8, .pollHw 1 9, .usbInReady]
    (hw.BuffersOk ∧ hw.cfg.backend = .hardware ∧ .reset ∉ is ∧
      (runOps is hw).map State.ovfIn = some false ∧ reportedBytes is hw = [7, 9]) ∧
    (let s := { hw with rbIn := ⟨[], 1, 0⟩ }
     s.BuffersOk ∧ (runOps [.pollHw 1 7] s).map State.ovfIn = some true) := by decide

/-- The same waiting byte, another byte in a cell behind it. -/
theorem witness_IdleCellsAreNeverRead :
    let s := { tiny with rbIn := ⟨[(0, 1)], 0, 1⟩ }
    let s' := { tiny with rbIn := ⟨[(0, 1), (5, 9), (9, 7)], 0, 1⟩ }
    exec .usbInReady s = .next (after .usbInReady s) ∧ s.BuffersOk ∧ s'.BuffersOk ∧ s.SameButIdleCells s' :=
  ⟨rfl, by decide, by decide, rfl, by decide, by decide⟩

/-! The calibration steps. -/

theorem witness_MeasRecordsBaseline :
    (baseState.cal.phase = .base ∧ baseState.cfg.split = false) ∧
    (let s := inPass (State.resetOf Cfg.splitTwo 0xFF) ⟨.base, 2, 0, 0, 0, 0, 0, 0, 0, 0⟩ 2
     s.cal.phase = .base ∧ s.cfg.split = true) := by decide

theorem witness_MeasChoosesHalf : splitState.cal.phase = .splitp ∧ splitState.cfg.split = true := by decide

theorem witness_MeasHalvesStep :
    searchState.CalOk ∧ searchState.cal.phase = .search ∧ 2 ≤ searchState.cal.step.toNat :=
  ⟨witness_calOk_search, by decide, by decide⟩

theorem witness_MeasAbandonsWorseResult :
    lastSearchState.cal.phase = .search ∧ lastSearchState.cal.step.toNat ≤ 1 ∧
    lastSearchState.cal.baseDev.toNat < deviation lastSearchState.cfg 1029 := by decide

/-- Equality is not worse (V1.7). -/
theorem witness_MeasStartsNeighbourhood :
    lastSearchState.CalOk ∧ lastSearchState.cal.phase = .search ∧ lastSearchState.cal.step.toNat ≤ 1 ∧
    deviation lastSearchState.cfg 1028 ≤ lastSearchState.cal.baseDev.toNat :=
  ⟨witness_calOk_lastSearch, by decide, by decide, by decide⟩

/-- A measurement that is better than the best so far, and one that ties with it. -/
theorem witness_MeasTriesNextCandidate :
    (neighState.CalOk ∧ neighState.cal.phase = .neigh ∧ neighState.cal.idx.toNat < 4 ∧
      neighState.osctrim.toNat + 1 < neighState.cal.base.toNat + 2 ^ neighState.cfg.k) ∧
    deviation neighState.cfg 997 < neighState.cal.bestDev.toNat ∧
    (let s := { neighState with cal := { neighState.cal with bestDev := 3 } }
     s.CalOk ∧ s.cal.bestDev.toNat ≤ deviation s.cfg 997) :=
  ⟨⟨witness_calOk_neigh, by decide, by decide, by decide⟩, by decide, witness_calOk_neigh, by decide⟩

/-- The last of five candidates, and the last inside the range. -/
theorem witness_MeasFinishesPass :
    (lastNeighState.CalOk ∧ lastNeighState.cal.phase = .neigh ∧ lastNeighState.cal.idx.toNat = 4) ∧
    (edgeNeighState.CalOk ∧ edgeNeighState.cal.phase = .neigh ∧
      edgeNeighState.osctrim.toNat + 1 = edgeNeighState.cal.base.toNat + 2 ^ edgeNeighState.cfg.k) :=
  ⟨⟨witness_calOk_lastNeigh, by decide, by decide⟩, ⟨witness_calOk_edgeNeigh, by decide, by decide⟩⟩

/-- Every row of R136. -/
theorem witness_PhaseTransitions :
    (after (.meas 5) tiny).cal.phase = .idle ∧ (after .busReset tiny).cal.phase = .base ∧
    (after .reset searchState).cal.phase = .idle ∧
    (after (.meas 5) baseState).cal.phase = .search ∧
    (after (.meas 5) (inPass (State.resetOf Cfg.splitTwo 0xFF) ⟨.base, 2, 0, 0, 0, 0, 0, 0, 0, 0⟩ 2)).cal.phase =
      .splitp ∧
    (after (.meas 5) splitState).cal.phase = .search ∧ (after (.meas 5) searchState).cal.phase = .search ∧
    (after (.meas 1029) lastSearchState).cal.phase = .idle ∧
    (after (.meas 1028) lastSearchState).cal.phase = .neigh ∧
    (after (.meas 5) neighState).cal.phase = .neigh ∧ (after (.meas 5) edgeNeighState).cal.phase = .idle := by decide

theorem witness_TrimAndNvWritesAreTraced :
    exec (.meas 1001) lastNeighState = .next (after (.meas 1001) lastNeighState) ∧
    (after (.meas 1001) lastNeighState).osctrim ≠ lastNeighState.osctrim ∧
    (after (.meas 1001) lastNeighState).nv ≠ lastNeighState.nv := ⟨rfl, by decide, by decide⟩

/-- A one-bit pass: a perfect baseline, then a worse result; a TICK falls between. -/
theorem witness_AbandonedPassRestoresTrim :
    let s := State.resetOf Cfg.oneBit 0xFF
    let t := after .busReset s
    let is : List Instr := [.tick, .meas 1000]
    s.cal.phase = .idle ∧ exec .busReset s = .next t ∧ (∀ i ∈ is, i ≠ .reset ∧ i ≠ .busReset) ∧
    (runOps is t).map (fun u => (u.cal.phase, (after (.meas 1500) u).cal.phase)) = some (.search, .idle) :=
  ⟨by decide, rfl, by decide, by decide⟩

theorem witness_PassTakesCountedMeasurements :
    baseState.CalOk ∧ baseState.cal.phase = .base ∧
    ([1, 2, 3, 4, 5, 6, 7, 8, 9] : List Half).length = 1 + baseState.cfg.split.toNat + baseState.cfg.k :=
  ⟨witness_calOk_base, by decide, by decide⟩

/-- The linear oscillator of V1.1. -/
theorem witness_CalibrationConverges :
    let f : Byte → Half := fun b => 900 + b.setWidth 16
    searchState.CalOk ∧ searchState.cal.phase = .search ∧
    searchState.cal.step.toNat = 2 ^ (searchState.cfg.k - 1) ∧
    (∀ a b : Byte, searchState.cal.base.toNat ≤ a.toNat → a.toNat ≤ b.toNat →
      b.toNat < searchState.cal.base.toNat + 2 ^ searchState.cfg.k → (f a).toNat ≤ (f b).toNat) := by
  refine ⟨witness_calOk_search, by decide, by decide, fun a b _ h _ => ?_⟩
  have := a.isLt
  have := b.isLt
  have h900 : (900 : Half).toNat = 900 := rfl
  simp only [BitVec.toNat_add, BitVec.toNat_setWidth, h900]
  omega

/-! Line coding, the register map, the engine. -/

theorem witness_QuantizeRoundsToNearest : 0 < 400000 ∧ 400000 ≤ 666667 := by decide

theorem witness_LineCodingReadsBackVerbatim :
    let l : LineCoding := ⟨0, 0, 0, 0, 2, 4, 5⟩
    let is : List Instr := [.tick, .usbOut [1], .getLineCoding]
    exec (.setLineCoding l) tiny = .next (after (.setLineCoding l) tiny) ∧
    (∀ i ∈ is, i ≠ .reset ∧ i ≠ .busReset ∧ ∀ l', i ≠ .setLineCoding l') ∧
    (runOps is (after (.setLineCoding l) tiny)).isSome = true :=
  ⟨rfl, by simp, by decide⟩

theorem witness_RegisterMapReads : 0x1C < (0x1D : Byte).toNat ∧ 0x1C < (0xFF : Byte).toNat := by decide

/-- Without the gate, and with it and clear-to-send asserted. -/
theorem witness_PollStartsByte :
    (∀ s ∈ [{ withOut 6 true with cts := false }, { State.resetOf Cfg.ctsGated 0xFF with
        rbOut := ⟨[(0, 0x55)], 0, 1⟩ }],
      s.cfg.backend = .software ∧ s.BuffersOk ∧ s.GatesOk ∧ s.tx.idle = true ∧ s.usedOut ≠ 0 ∧
      (s.cfg.swTxCtsGate = false ∨ s.cts = true)) := by decide

/-- A byte in flight; nothing waiting; held by clear-to-send. -/
theorem witness_RedundantPollChangesNothing :
    let inFlight : State := { withOut 6 true with tx := ⟨false, 0x105, 11, 104, true⟩ }
    let held : State := { State.resetOf Cfg.ctsGated 0xFF with cts := false, rbOut := ⟨[(0, 0x55)], 0, 1⟩ }
    (inFlight.cfg.backend = .software ∧ inFlight.GatesOk ∧ inFlight.tx.idle = false) ∧
    (tiny.cfg.backend = .software ∧ tiny.GatesOk ∧ tiny.usedOut = 0) ∧
    (held.cfg.backend = .software ∧ held.GatesOk ∧ held.cfg.swTxCtsGate = true ∧ held.cts = false) := by decide

/-- At rest; counting; at a bit; at the end of the stop bit. -/
theorem witness_TickRunsTransmitter :
    (tiny.cfg.backend = .software ∧ tiny.tx.left = 0) ∧
    (let s := { tiny with tx := ⟨false, 0x105, 11, 2, true⟩ }
     s.cfg.backend = .software ∧ s.tx.left ≠ 0 ∧ 1 < s.tx.cnt.toNat) ∧
    (let s := { tiny with tx := ⟨false, 0x3FF, 2, 1, true⟩ }
     s.cfg.backend = .software ∧ 1 < s.tx.left.toNat ∧ s.tx.cnt = 1) ∧
    (let s := { tiny with tx := ⟨false, 0x3FF, 1, 1, true⟩ }
     s.cfg.backend = .software ∧ s.tx.left = 1 ∧ s.tx.cnt = 1) := by decide

/-- The tiny machine with the given receiver, pin level and room in IN. -/
def receiving (r : Rx) (rxd : Bool) (room : Nat) : State := { withIn room (decide (0 < room)) with rx := r, pinRxd := rxd }

/-- Armed without and with an edge; counting; a sample; the last sample with room and without. -/
theorem witness_TickRunsReceiver :
    ∀ s ∈ [receiving ⟨0, 0, 0, true⟩ true 7, receiving ⟨0, 0, 0, true⟩ false 7, receiving ⟨8, 2, 0, true⟩ true 7,
        receiving ⟨8, 1, 0, true⟩ true 7, receiving ⟨1, 1, 0x8E, true⟩ true 7, receiving ⟨1, 1, 0x8E, true⟩ true 0],
      s.cfg.backend = .software ∧ s.BuffersOk ∧ s.GatesOk := by decide

theorem witness_TickRunsReceiver_clauses :
    (receiving ⟨0, 0, 0, true⟩ true 7).rxLevel = true ∧ (receiving ⟨0, 0, 0, true⟩ false 7).rxLevel = false ∧
    (receiving ⟨8, 2, 0, true⟩ true 7).rx.cnt.toNat = 2 ∧ (receiving ⟨8, 1, 0, true⟩ true 7).rx.cnt = 1 ∧
    (receiving ⟨1, 1, 0x8E, true⟩ true 7).freeIn = 7 ∧ (receiving ⟨1, 1, 0x8E, true⟩ true 0).freeIn = 0 := by
  decide

/-- A byte just loaded, one tick per bit: before, at and between the bits, and one tick before the end. -/
theorem witness_TransmitSchedule :
    let s : State := { fast with tx := ⟨false, frame 0x41, 11, 1, true⟩ }
    (s.cfg.backend = .software ∧ s.tx.left = 11 ∧ s.tx.cnt.toNat = s.ocr.toNat + 1 ∧ s.tx.idle = false) ∧
    ∀ n ∈ [0, 1, 2, 9, 10], (runOps (List.replicate n .tick) s).isSome = true ∧
      (List.replicate n Instr.tick).count .tick = n ∧ n < 11 * (s.ocr.toNat + 1) := by decide

/-- A line that carries 0xC7 after its start bit, one tick per bit. -/
theorem witness_ReceiverSamplesOnSchedule :
    let levels := [false, true, true, true, false, false, false, true, true]
    fast.cfg.backend = .software ∧ fast.BuffersOk ∧ fast.TimingOk ∧ fast.rx.left = 0 ∧ fast.rx.prev = true ∧
    1 = fast.ocr.toNat + 1 ∧ levels.length = (1 + 1 / 4) + 7 * 1 + 1 ∧ levels[0]? = some false ∧
    ((runOps (lineOps fast.cfg fast.cts levels) fast).map fun t => t.waitingIn) = some [0xC7] := by decide

theorem witness_LoopbackReturnsEveryByte : Cfg.tiny.backend = .software := rfl

/-- A good byte with room and without; an error flag; nothing received. -/
theorem witness_PollHwReceives :
    (hw.cfg.backend = .hardware ∧ hw.BuffersOk ∧ hw.freeIn ≠ 0 ∧
      (0x01 : Byte).getLsbD 0 = true ∧ (0x01 : Byte).getLsbD 1 = false) ∧
    (let s := { hw with rbIn := ⟨[], 0, 127⟩ }
     s.cfg.backend = .hardware ∧ s.BuffersOk ∧ s.freeIn = 0) ∧
    (0x03 : Byte).getLsbD 1 = true ∧ (0x00 : Byte).getLsbD 0 = false := by decide

/-- A byte to send; not ready; clear-to-send not asserted; nothing waiting. -/
theorem witness_PollHwTransmits :
    (let s := { hw with rbOut := ⟨[(0, 0x30)], 0, 1⟩ }
     s.cfg.backend = .hardware ∧ s.BuffersOk ∧ (0x04 : Byte).getLsbD 2 = true ∧ s.cts = true ∧ s.usedOut ≠ 0) ∧
    (0x00 : Byte).getLsbD 2 = false ∧
    ({ hw with cts := false } : State).cts = false ∧ hw.usedOut = 0 := by decide

/-- The same machine under the two backends. -/
def Cfg.tinyHw : Cfg := { Params.tiny with backend := .hardware, valid := by decide }

theorem witness_BackendsAgreeElsewhere :
    let s' := { tiny with cfg := Cfg.tinyHw }
    s' = { tiny with cfg := s'.cfg } ∧
    s'.cfg.toParams = { tiny.cfg.toParams with backend := s'.cfg.backend } ∧
    (Instr.busReset ≠ .poll ∧ Instr.busReset ≠ .tick ∧ ∀ flags rxdata, Instr.busReset ≠ .pollHw flags rxdata) ∧
    (Instr.getLineCoding ≠ .reset ∧ Instr.getLineCoding ≠ .busReset ∧
      ∀ l, Instr.getLineCoding ≠ .setLineCoding l) :=
  ⟨rfl, rfl, ⟨by decide, by decide, by simp⟩, ⟨by decide, by decide, by simp⟩⟩

/-- A configuring operation under the two backends (V5.8): one `periph_cfg` more under the hardware backend. -/
theorem witness_BackendsAgreeElsewhere_configures :
    let l : LineCoding := ⟨0x00, 0xC2, 0x01, 0x00, 0x00, 0x00, 0x08⟩
    Instr.configures (.setLineCoding l) = true ∧
    (after (.setLineCoding l) tiny).trace = tiny.trace ∧
    (after (.setLineCoding l) { tiny with cfg := Cfg.tinyHw }).trace = tiny.trace ++ [.periphCfg l] := by decide

/-- RESET; a bit that stays; each overflow (the outbound one only where no run leads, V2.1). -/
theorem witness_FaultBitsAreSticky :
    (after .reset { tiny with ovfOut := true }).ovfOut = false ∧
    (after .getLineCoding { tiny with ovfIn := true }).ovfIn = true ∧
    (tiny.ovfOut = false ∧ (after (.usbOut [1, 2]) (withOut 1 true)).ovfOut = true) ∧
    (hw.ovfIn = false ∧ (after (.pollHw 1 0xEE) { hw with rbIn := ⟨[], 0, 127⟩ }).ovfIn = true) := by decide

theorem witness_FaultBitsGateNothing :
    ∀ n, Instr.rdreg 2 = .rdreg n → 2 ≤ n.toNat := by
  intro n h
  cases h
  decide

end Sys2Proof.Tests
end

section
/-! PROOFS. What an operation can do and what it leaves alone: every operation's outcome as a composition of the
shared operations (`Effect`), the state elements it may touch (`Touches`), and the passage from operations to
steps. -/

namespace Sys2Proof.Machine

/-! ### The outcomes of an operation -/

/-- The ways an operation can end, each with its condition and its next state in terms of the shared operations. -/
inductive Effect (s : State) : Instr → State → Prop
  | reset : Effect s .reset (s.clearAll.loadTrim.configure.reply .ok [])
  | poll (hb : s.cfg.backend = .software) : Effect s .poll (s.txStart.gateEval.reply .ok [])
  | pollUnavailable (hb : s.cfg.backend = .hardware) : Effect s .poll (s.reply .stall [])
  | pollHw (flags rxdata : Byte) (hb : s.cfg.backend = .hardware) :
      Effect s (.pollHw flags rxdata)
        (((s.hwReceive flags rxdata).hwTransmit flags).2.gateEval.reply .ok
          ((s.hwReceive flags rxdata).hwTransmit flags).1)
  | pollHwUnavailable (flags rxdata : Byte) (hb : s.cfg.backend = .software) :
      Effect s (.pollHw flags rxdata) (s.reply .stall [])
  | startPass (hp : s.cal.phase = .idle) :
      Effect s .busReset
        (((((s.setLc s.cfg.defaultLc).configure).setCal
          { s.cal with saved := s.osctrim, phase := .base }).emit .measRequest).reply .ok [])
  | restartPass (hp : s.cal.phase ≠ .idle) :
      Effect s .busReset
        ((((((s.setLc s.cfg.defaultLc).configure).applyTrim s.cal.saved).setCal
          { s.cal with phase := .base }).emit .measRequest).reply .ok [])
  | measIdle (x : Half) (hp : s.cal.phase = .idle) : Effect s (.meas x) (s.reply .nak [])
  | measBase (x : Half) (hp : s.cal.phase = .base) : Effect s (.meas x) ((s.stepBase x).reply .ok [])
  | measSplit (x : Half) (hp : s.cal.phase = .splitp) : Effect s (.meas x) ((s.stepSplit x).reply .ok [])
  | measSearch (x : Half) (hp : s.cal.phase = .search) : Effect s (.meas x) ((s.stepSearch x).reply .ok [])
  | measNeigh (x : Half) (hp : s.cal.phase = .neigh) : Effect s (.meas x) ((s.stepNeigh x).reply .ok [])
  | usbOut (data : List Byte) (hl : data.length ≤ s.cfg.pktOut) (ha : s.usbAccept = true) :
      Effect s (.usbOut data) ((data.foldl State.pushOut s).gateEval.reply .ok [])
  | usbOutTooLong (data : List Byte) (hl : s.cfg.pktOut < data.length) :
      Effect s (.usbOut data) (s.reply .stall [])
  | usbOutClosed (data : List Byte) (hl : data.length ≤ s.cfg.pktOut) (ha : s.usbAccept = false) :
      Effect s (.usbOut data) (s.reply .nak [])
  | report (hu : 0 < s.usedIn) : Effect s .usbInReady (s.drainIn.reply .ok s.reportBytes)
  | emptyReport (hu : s.usedIn = 0) (hz : s.zlpPending = true) :
      Effect s .usbInReady ((s.setZlp false).reply .ok [])
  | nothingToReport (hu : s.usedIn = 0) (hz : s.zlpPending = false) :
      Effect s .usbInReady (s.reply .nak [])
  | setLineCoding (l : LineCoding) : Effect s (.setLineCoding l) ((s.setLc l).configure.reply .ok [])
  | getLineCoding : Effect s .getLineCoding (s.reply .ok s.lc.bytes)
  | setControlLineState (v : Half) :
      Effect s (.setControlLineState v) ((s.setDtr (lineStateReady v)).reply .ok [])
  | pins (p : Byte) : Effect s (.pins p) ((s.setPins (pinsRxd p) (pinsCts p)).reply .ok [])
  | tick (hb : s.cfg.backend = .software) : Effect s .tick (s.txTick.rxTick.reply .ok [])
  | tickUnavailable (hb : s.cfg.backend = .hardware) : Effect s .tick (s.reply .stall [])
  | rdreg (n x : Byte) (hn : s.registers[n.toNat]? = some x) : Effect s (.rdreg n) (s.reply .ok [x])
  | rdregReserved (n : Byte) (hn : s.registers[n.toNat]? = none) : Effect s (.rdreg n) (s.reply .stall [])

/-- Every operation ends in one of these ways (R281). -/
theorem exec_total (i : Instr) (s : State) : ∃ t, exec i s = .next t ∧ Effect s i t := by
  cases i with
  | reset => exact ⟨_, rfl, .reset⟩
  | poll =>
    cases hb : s.cfg.backend with
    | software => exact ⟨_, by simp only [exec, execPoll, hb]; rfl, .poll hb⟩
    | hardware => exact ⟨_, by simp only [exec, execPoll, hb]; rfl, .pollUnavailable hb⟩
  | pollHw flags rxdata =>
    cases hb : s.cfg.backend with
    | software => exact ⟨_, by simp only [exec, execPollHw, hb]; rfl, .pollHwUnavailable flags rxdata hb⟩
    | hardware => exact ⟨_, by simp only [exec, execPollHw, hb]; rfl, .pollHw flags rxdata hb⟩
  | busReset =>
    by_cases hp : s.cal.phase = .idle
    · exact ⟨_, by simp only [exec, execBusReset, hp, if_true]; rfl, .startPass hp⟩
    · exact ⟨_, by simp only [exec, execBusReset, hp, if_false]; rfl, .restartPass hp⟩
  | meas x =>
    cases hp : s.cal.phase with
    | idle => exact ⟨_, by simp only [exec, execMeas, hp]; rfl, .measIdle x hp⟩
    | base => exact ⟨_, by simp only [exec, execMeas, hp]; rfl, .measBase x hp⟩
    | splitp => exact ⟨_, by simp only [exec, execMeas, hp]; rfl, .measSplit x hp⟩
    | search => exact ⟨_, by simp only [exec, execMeas, hp]; rfl, .measSearch x hp⟩
    | neigh => exact ⟨_, by simp only [exec, execMeas, hp]; rfl, .measNeigh x hp⟩
  | usbOut data =>
    by_cases hl : s.cfg.pktOut < data.length
    · exact ⟨_, if_pos hl, .usbOutTooLong data hl⟩
    · by_cases ha : s.usbAccept = true
      · exact ⟨_, (if_neg hl).trans (if_pos ha), .usbOut data (by omega) ha⟩
      · exact ⟨_, (if_neg hl).trans (if_neg ha), .usbOutClosed data (by omega) (by simpa using ha)⟩
  | usbInReady =>
    by_cases hu : 0 < s.usedIn
    · exact ⟨_, if_pos hu, .report hu⟩
    · by_cases hz : s.zlpPending = true
      · exact ⟨_, (if_neg hu).trans (if_pos hz), .emptyReport (by omega) hz⟩
      · exact ⟨_, (if_neg hu).trans (if_neg hz), .nothingToReport (by omega) (by simpa using hz)⟩
  | setLineCoding l => exact ⟨_, rfl, .setLineCoding l⟩
  | getLineCoding => exact ⟨_, rfl, .getLineCoding⟩
  | setControlLineState v => exact ⟨_, rfl, .setControlLineState v⟩
  | pins p => exact ⟨_, rfl, .pins p⟩
  | tick =>
    cases hb : s.cfg.backend with
    | software => exact ⟨_, by simp only [exec, execTick, hb]; rfl, .tick hb⟩
    | hardware => exact ⟨_, by simp only [exec, execTick, hb]; rfl, .tickUnavailable hb⟩
  | rdreg n =>
    cases hn : s.registers[n.toNat]? with
    | some x => exact ⟨_, by simp only [exec, execRdreg, hn]; rfl, .rdreg n x hn⟩
    | none => exact ⟨_, by simp only [exec, execRdreg, hn]; rfl, .rdregReserved n hn⟩

/-- The inversion lemma of `exec`. -/
theorem exec_effect {i : Instr} {s t : State} (h : exec i s = .next t) : Effect s i t := by
  obtain ⟨t', h', he⟩ := exec_total i s
  rw [h] at h'
  cases h'
  exact he

/-! ### What the shared operations leave alone -/

theorem State.txStart_frame (s : State) :
    s.txStart = { s with
      rbOut := { s.rbOut with rd := s.txStart.rbOut.rd }
      tx := { s.txStart.tx with txd := s.tx.txd } } := by
  rcases s.txStart_cases with ⟨-, -, -, b, r, hd, e⟩ | ⟨-, e⟩ <;> rw [e]
  obtain ⟨-, -, rfl⟩ := Ring.dequeue_eq_some.1 hd
  rfl

theorem State.hwReceive_frame (s : State) (flags rxdata : Byte) :
    s.hwReceive flags rxdata = { s with
      rbIn := { (s.hwReceive flags rxdata).rbIn with rd := s.rbIn.rd }
      ovfIn := (s.hwReceive flags rxdata).ovfIn } := by
  rcases s.hwReceive_cases flags rxdata with ⟨-, -, -, r, hq, e⟩ | ⟨-, -, -, e⟩ | ⟨-, e⟩ <;> rw [e]
  · obtain ⟨-, rfl⟩ := Ring.enqueue_eq_some.1 hq
    rfl
  · rfl

theorem State.hwTransmit_frame (s : State) (flags : Byte) :
    (s.hwTransmit flags).2 = { s with
      rbOut := { s.rbOut with rd := (s.hwTransmit flags).2.rbOut.rd }
      trace := (s.hwTransmit flags).2.trace } := by
  rcases s.hwTransmit_cases flags with ⟨-, -, -, b, r, hd, e⟩ | ⟨-, e⟩ <;> rw [e]
  obtain ⟨-, -, rfl⟩ := Ring.dequeue_eq_some.1 hd
  rfl

theorem State.foldl_pushOut_frame (data : List Byte) (s : State) :
    data.foldl State.pushOut s = { s with
      rbOut := { (data.foldl State.pushOut s).rbOut with rd := s.rbOut.rd }
      ovfOut := (data.foldl State.pushOut s).ovfOut } := by
  induction data generalizing s with
  | nil => rfl
  | cons b rest ih =>
    rw [List.foldl_cons, ih]
    rcases s.pushOut_cases b with ⟨-, r, hq, e⟩ | ⟨-, e⟩ <;> rw [e]
    · obtain ⟨-, rfl⟩ := Ring.enqueue_eq_some.1 hq
      rfl
    · rfl

theorem State.drainIn_frame (s : State) :
    s.drainIn = { s with
      rbIn := { s.drainIn.rbIn with wr := s.rbIn.wr }
      zlpPending := s.drainIn.zlpPending
      usbAccept := s.drainIn.usbAccept
      rts := s.drainIn.rts } := rfl

theorem State.pushIn_frame (s : State) (b : Byte) :
    s.pushIn b = s.setIn { (s.pushIn b).rbIn with rd := s.rbIn.rd } := by
  rcases s.pushIn_cases b with ⟨-, r, hq, e⟩ | ⟨-, e⟩ <;> rw [e]
  · obtain ⟨-, rfl⟩ := Ring.enqueue_eq_some.1 hq
    rfl
  · rfl

/-- The receiver's events of a TICK set the receiver and, when they complete a byte, store it and evaluate the gates
(R200, R209). -/
theorem State.rxEvents_setRx_or_byte (s : State) (lvl : Bool) :
    (∃ r, s.rxEvents lvl = s.setRx r) ∨ ∃ r b, s.rxEvents lvl = ((s.setRx r).pushIn b).gateEval := by
  rcases s.rxEvents_cases lvl with ⟨-, -, e⟩ | ⟨-, -, -, e⟩ | ⟨-, -, e⟩ | ⟨-, -, -, e⟩ | ⟨-, -, e⟩
  · exact .inl ⟨s.rx, e⟩
  · exact .inl ⟨_, e⟩
  · exact .inl ⟨_, e⟩
  · exact .inl ⟨_, e⟩
  · exact .inr ⟨_, _, e⟩

theorem State.rxEvents_frame (s : State) (lvl : Bool) :
    s.rxEvents lvl = { s with
      rx := (s.rxEvents lvl).rx
      rbIn := { (s.rxEvents lvl).rbIn with rd := s.rbIn.rd }
      usbAccept := (s.rxEvents lvl).usbAccept
      rts := (s.rxEvents lvl).rts } := by
  rcases s.rxEvents_setRx_or_byte lvl with ⟨r, e⟩ | ⟨r, b, e⟩ <;> rw [e]
  · rfl
  · rw [State.pushIn_frame]; rfl

/-! ### A calibration step touches the calibration elements only (R121) -/

theorem State.stepBase_sameButCal (s : State) (x : Half) : s.SameButCal (s.stepBase x) := by
  unfold State.stepBase
  split
  · rfl
  · rw [State.beginSearch_eq]; rfl

theorem State.stepSplit_sameButCal (s : State) (x : Half) : s.SameButCal (s.stepSplit x) := by
  rw [State.stepSplit, State.beginSearch_eq]; rfl

theorem State.stepSearch_sameButCal (s : State) (x : Half) : s.SameButCal (s.stepSearch x) := by
  rcases s.stepSearch_cases x with ⟨-, e⟩ | ⟨-, -, e⟩ | ⟨-, -, e⟩
  · rw [e]
  · rw [e]
  · rw [e]; rfl

theorem State.stepNeigh_sameButCal (s : State) (x : Half) : s.SameButCal (s.stepNeigh x) := by
  rcases s.stepNeigh_cases x with ⟨j, -, e⟩ | ⟨-, e⟩
  · rw [e]
  · rw [e, State.finishPass_eq]; rfl

/-! ### The elements an operation may write -/

/-- `t` is `s` but for the elements operation `i` may write (R27 to R45); of a ring or of the transmitter, only the
parts it may write. -/
def Frame (s t : State) : Instr → Prop
  | .reset => t = { t with cfg := s.cfg, port := s.port, nv := s.nv }
  | .poll => t = { s with
      rbOut := { s.rbOut with rd := t.rbOut.rd }, tx := { t.tx with txd := s.tx.txd },
      usbAccept := t.usbAccept, rts := t.rts, answer := t.answer }
  | .pollHw _ _ => t = { s with
      rbIn := { t.rbIn with rd := s.rbIn.rd }, rbOut := { s.rbOut with rd := t.rbOut.rd },
      usbAccept := t.usbAccept, rts := t.rts, ovfIn := t.ovfIn, trace := t.trace, answer := t.answer }
  | .busReset => t = { s with
      lc := t.lc, ocr := t.ocr, first := t.first, osctrim := t.osctrim, cal := t.cal, trace := t.trace,
      answer := t.answer }
  | .meas _ => s.SameButCal t
  | .usbOut _ => t = { s with
      rbOut := { t.rbOut with rd := s.rbOut.rd }, usbAccept := t.usbAccept, rts := t.rts,
      ovfOut := t.ovfOut, answer := t.answer }
  | .usbInReady => t = { s with
      rbIn := { t.rbIn with wr := s.rbIn.wr }, zlpPending := t.zlpPending, usbAccept := t.usbAccept,
      rts := t.rts, answer := t.answer }
  | .setLineCoding _ => t = { s with
      lc := t.lc, ocr := t.ocr, first := t.first, trace := t.trace, answer := t.answer }
  | .getLineCoding => t = { s with answer := t.answer }
  | .setControlLineState _ => t = { s with dtr := t.dtr, answer := t.answer }
  | .pins _ => t = { s with pinRxd := t.pinRxd, cts := t.cts, answer := t.answer }
  | .tick => t = { s with
      tx := t.tx, rx := t.rx, rbIn := { t.rbIn with rd := s.rbIn.rd }, usbAccept := t.usbAccept,
      rts := t.rts, answer := t.answer }
  | .rdreg _ => t = { s with answer := t.answer }

theorem Effect.frame {i : Instr} {s t : State} (h : Effect s i t) : Frame s t i := by
  cases h with
  | reset => simp only [Frame, State.configure_eq]; rfl
  | poll hb => simp only [Frame]; rw [State.txStart_frame]; rfl
  | pollHw flags rxdata hb =>
    have hu := s.hwReceive_frame flags rxdata
    have hv := (s.hwReceive flags rxdata).hwTransmit_frame flags
    simp only [Frame]
    generalize (s.hwReceive flags rxdata).hwTransmit flags = v at hv ⊢
    generalize s.hwReceive flags rxdata = u at hu hv
    rw [hv, hu]
    rfl
  | startPass hp => simp only [Frame, State.configure_eq]; rfl
  | restartPass hp => simp only [Frame, State.configure_eq]; rfl
  | measBase x hp => simp only [Frame]; rw [State.stepBase_sameButCal]; rfl
  | measSplit x hp => simp only [Frame]; rw [State.stepSplit_sameButCal]; rfl
  | measSearch x hp => simp only [Frame]; rw [State.stepSearch_sameButCal]; rfl
  | measNeigh x hp => simp only [Frame]; rw [State.stepNeigh_sameButCal]; rfl
  | usbOut data hl ha => simp only [Frame]; rw [State.foldl_pushOut_frame]; rfl
  | report hu => simp only [Frame]; rw [State.drainIn_frame]; rfl
  | setLineCoding l => simp only [Frame, State.configure_eq]; rfl
  | tick hb => simp only [Frame, State.rxTick]; rw [State.rxEvents_frame]; rfl
  | _ => rfl

/-- The frame of an operation. -/
theorem exec_frame {i : Instr} {s t : State} (h : exec i s = .next t) : Frame s t i :=
  (exec_effect h).frame

/-! ### From operations to steps -/

/-- What every operation keeps, and what the port and the answers do not bear on, every step keeps. -/
theorem step_keeps {P : State → Prop} (hport : ∀ s port, P s → P { s with port := port })
    (hanswer : ∀ s st bytes, P s → P (s.reply st bytes))
    (hexec : ∀ i s t, exec i s = .next t → P s → P t) {s t : State} (h : step s = .next t) (hs : P s) : P t := by
  unfold step State.takePacket at h
  cases hp : s.port with
  | nil =>
    rw [hp] at h
    cases h
    exact hs
  | cons p rest =>
    simp only [hp] at h
    cases hd : decode p with
    | ok i =>
      simp only [hd] at h
      exact hexec i _ t h (hport s rest hs)
    | error e =>
      simp only [hd] at h
      cases e <;> cases h <;> exact hanswer _ _ _ (hport s rest hs)

end Sys2Proof.Machine
end

section
/-! PROOFS. Who writes what (O16, O17). -/

namespace Sys2Proof.Machine

/-- Settles O16: operation by operation the frame names the elements that can differ. -/
theorem onlyNamedOperationsWrite : Obligations.OnlyNamedOperationsWrite := by
  intro i s t h
  have hf := exec_frame h
  cases i <;> (rw [hf]; simp)

/-- No operation changes the configuration. -/
theorem exec_cfg {i : Instr} {s t : State} (h : exec i s = .next t) : t.cfg = s.cfg :=
  (onlyNamedOperationsWrite i s t h).1

/-! ### Bytes of the stores (R22, R26) -/

/-- A write touches no other address, whatever form the memory has. -/
theorem Memory.read_write_of_ne (m : Memory) {a b : Nat} (v : Byte) (h : b ≠ a) :
    Memory.read (Memory.write m a v) b = Memory.read m b := by
  induction m with
  | nil =>
    simp only [Memory.write]
    split_ifs <;> simp [Memory.read, h.symm]
  | cons d rest ih =>
    obtain ⟨k, x⟩ := d
    simp only [Memory.write]
    split_ifs with hlt heq hv hv
    · simp only [Memory.read, ih]
    · simp [Memory.read, heq, h.symm]
    · simp [Memory.read, heq, h.symm]
    · rfl
    · simp [Memory.read, h.symm]

/-- The copy of R165 writes the extension region alone (R22). -/
theorem Ring.makeContiguous_read_store (r : Ring) {cap a : Nat} (n : Nat) (h : a < cap) :
    Memory.read (r.makeContiguous cap n).mem a = Memory.read r.mem a := by
  unfold Ring.makeContiguous
  generalize slot cap r.rd + n - cap = k
  induction k with
  | zero => rfl
  | succ k ih =>
    rw [List.range_succ, List.foldl_append, List.foldl_cons, List.foldl_nil,
      Memory.read_write_of_ne _ _ (by omega)]
    exact ih

/-- An enqueue writes the store alone (R22, R152). -/
theorem Ring.enqueue_read_extension {r r' : Ring} {cap a : Nat} {b : Byte} (hc : cap ∈ capacities)
    (h : r.enqueue cap b = some r') (ha : cap ≤ a) : Memory.read r'.mem a = Memory.read r.mem a := by
  obtain ⟨-, rfl⟩ := Ring.enqueue_eq_some.1 h
  exact Memory.read_write_of_ne _ _ (by have := slot_lt hc r.wr; omega)

theorem State.hwReceive_read_extension (s : State) (flags rxdata : Byte) {a : Nat} (ha : s.cfg.capIn ≤ a) :
    Memory.read (s.hwReceive flags rxdata).rbIn.mem a = Memory.read s.rbIn.mem a := by
  rcases s.hwReceive_cases flags rxdata with ⟨-, -, -, r, hq, e⟩ | ⟨-, -, -, e⟩ | ⟨-, e⟩ <;> rw [e]
  · exact Ring.enqueue_read_extension s.cfg.capIn_mem hq ha
  · rfl

theorem State.pushIn_read_extension (s : State) (b : Byte) {a : Nat} (ha : s.cfg.capIn ≤ a) :
    Memory.read (s.pushIn b).rbIn.mem a = Memory.read s.rbIn.mem a := by
  rcases s.pushIn_cases b with ⟨-, r, hq, e⟩ | ⟨-, e⟩ <;> rw [e]
  exact Ring.enqueue_read_extension s.cfg.capIn_mem hq ha

theorem State.rxEvents_read_extension (s : State) (lvl : Bool) {a : Nat} (ha : s.cfg.capIn ≤ a) :
    Memory.read (s.rxEvents lvl).rbIn.mem a = Memory.read s.rbIn.mem a := by
  rcases s.rxEvents_setRx_or_byte lvl with ⟨r, e⟩ | ⟨r, b, e⟩ <;> rw [e]
  · rfl
  · exact (s.setRx r).pushIn_read_extension b ha

/-- Only USB_IN_READY changes a byte of the extension region (R22). -/
theorem Effect.read_extension {i : Instr} {s t : State} (h : Effect s i t) (hi : i ≠ .usbInReady) {a : Nat}
    (ha : s.cfg.capIn ≤ a) : Memory.read t.rbIn.mem a = Memory.read s.rbIn.mem a := by
  have hf := h.frame
  cases h with
  | pollHw flags rxdata hb =>
    rw [State.hwTransmit_frame]
    exact s.hwReceive_read_extension flags rxdata ha
  | tick hb => exact s.txTick.rxEvents_read_extension s.txTick.rxLevel ha
  | reset => rw [State.configure_eq]; rfl
  | report hu => exact absurd rfl hi
  | pollHwUnavailable | tickUnavailable | emptyReport | nothingToReport => rfl
  | _ => rw [hf]

/-- USB_IN_READY changes no byte of the store (R26). -/
theorem State.drainIn_read_store (s : State) {a : Nat} (ha : a < s.cfg.capIn) :
    Memory.read s.drainIn.rbIn.mem a = Memory.read s.rbIn.mem a :=
  Ring.makeContiguous_read_store s.rbIn s.reportLen ha

/-- Settles O17: the frames settle the indices; of the bytes, an enqueue writes the store alone and the copy of R165
the extension region alone. -/
theorem oneWriterPerIndex : Obligations.OneWriterPerIndex := by
  intro i s t h hr
  have hf := exec_frame h
  have hx := fun hi (a : Nat) => (exec_effect h).read_extension hi (a := a)
  cases exec_effect h with
  | reset => exact absurd rfl hr
  | poll hb => rw [hf]; simp [hb]
  | pollHw flags rxdata hb => rw [hf]; simpa [hb] using hx
  | report hu => rw [hf]; simpa using fun a => s.drainIn_read_store (a := a)
  | tick hb => rw [hf]; simpa [hb] using hx
  | _ => rw [hf]; simp

end Sys2Proof.Machine
end

section
/-! PROOFS. The fault bits (O59), and the traced writes of trim and non-volatile byte (O38). -/

namespace Sys2Proof.Machine

/-! ### Fault bits (R160, R252, R263) -/

/-- An accepted byte takes one free slot (R152). -/
theorem Ring.enqueue_free {r r' : Ring} {cap : Nat} {b : Byte} (hc : cap ∈ capacities)
    (h : r.enqueue cap b = some r') : r'.free cap = r.free cap - 1 := by
  obtain ⟨hf, rfl⟩ := Ring.enqueue_eq_some.1 h
  have := Ring.used_push (m := Memory.write r.mem (slot cap r.wr) b) hc hf
  unfold Ring.free
  omega

/-- A packet that fits loses no byte (R160). -/
theorem State.foldl_pushOut_ovfOut (data : List Byte) (s : State) (h : data.length ≤ s.freeOut) :
    (data.foldl State.pushOut s).ovfOut = s.ovfOut := by
  induction data generalizing s with
  | nil => rfl
  | cons b rest ih =>
    rw [List.length_cons] at h
    rcases s.pushOut_cases b with ⟨-, r, hq, e⟩ | ⟨hz, -⟩
    · have hr : (s.setOut r).freeOut = s.freeOut - 1 := Ring.enqueue_free s.cfg.capOut_mem hq
      rw [List.foldl_cons, e]
      exact ih (s.setOut r) (by omega)
    · omega

theorem State.foldl_pushOut_sticky (data : List Byte) (s : State) (h : s.ovfOut = true) :
    (data.foldl State.pushOut s).ovfOut = true := by
  induction data generalizing s with
  | nil => exact h
  | cons b rest ih =>
    rcases s.pushOut_cases b with ⟨-, r, -, e⟩ | ⟨-, e⟩ <;> rw [List.foldl_cons, e]
    · exact ih _ h
    · exact ih _ (by simp [h])

/-- Settles O59: a bit is raised only where an enqueue is rejected, and a packet that fits is never rejected. -/
theorem faultBitsAreSticky : Obligations.FaultBitsAreSticky := by
  intro i s t h
  have hf := exec_frame h
  cases exec_effect h with
  | reset => rw [State.configure_eq]; simp [State.clearAll, State.loadTrim]
  | usbOut data hl ha =>
    have hs := s.foldl_pushOut_sticky data
    have ho := s.foldl_pushOut_ovfOut data
    rw [hf]
    refine ⟨by simp, by simpa [State.gateEval_eq] using hs, fun h0 h1 => ⟨data, rfl, ha, ?_⟩, by simp +contextual⟩
    by_contra hle
    simp [State.gateEval_eq, ho (by omega), h0] at h1
  | pollHw flags rxdata hb =>
    rcases s.hwReceive_cases flags rxdata with ⟨-, -, -, r, -, e⟩ | ⟨hv, he, hz, e⟩ | ⟨-, e⟩
    · rw [hf, State.hwTransmit_frame, e]; simp +contextual [State.gateEval_eq]
    · rw [hf, State.hwTransmit_frame, e]; simp +contextual [hb, hz, State.gateEval_eq]; exact fun _ => ⟨hv, he⟩
    · rw [hf, State.hwTransmit_frame, e]; simp +contextual [State.gateEval_eq]
  | _ => rw [hf]; simp +contextual

/-! ### Traced writes (R42, R67, R134) -/

/-- The law of O38 for two states: what is written to the trim register and to the non-volatile byte is traced, and
the latter is written only at the end of a pass. -/
def State.WritesTraced (s t : State) : Prop :=
  ∃ events, t.trace = s.trace ++ events ∧
    (t.osctrim ≠ s.osctrim → Event.trimWrite t.osctrim ∈ events) ∧
    (t.nv ≠ s.nv → Event.nvWrite t.nv ∈ events) ∧
    (∀ v, Event.nvWrite v ∈ events →
      t.nv = v ∧ s.nv ≠ v ∧ s.cal.phase = .neigh ∧ t.cal.phase = .idle ∧ t.osctrim = v)

/-- An operation that leaves the non-volatile byte alone. -/
theorem State.writesTraced_of_nv_kept {s t : State} (events : List Event) (ht : t.trace = s.trace ++ events)
    (ho : t.osctrim ≠ s.osctrim → Event.trimWrite t.osctrim ∈ events) (hn : t.nv = s.nv)
    (hv : ∀ v, Event.nvWrite v ∉ events) : s.WritesTraced t :=
  ⟨events, ht, ho, absurd hn, fun v h => absurd h (hv v)⟩

/-- `configure` traces no write of the non-volatile byte. -/
theorem State.configure_trace (s : State) :
    ∃ events, s.configure.trace = s.trace ++ events ∧ ∀ v, Event.nvWrite v ∉ events := by
  rw [State.configure_eq]
  refine ⟨_, rfl, fun v => ?_⟩
  cases s.cfg.backend <;> simp

theorem State.WritesTraced.reply {s t : State} (h : s.WritesTraced t) (st : Status) (bytes : List Byte) :
    s.WritesTraced (t.reply st bytes) := h

/-- A trial trim applied and its measurement asked for (R120). -/
theorem State.probe_writesTraced (s : State) (c : Cal) (v : Byte) : s.WritesTraced ((s.setCal c).probe v) :=
  State.writesTraced_of_nv_kept [.trimWrite v, .measRequest] (List.append_assoc _ _ _) (by simp [State.probe])
    rfl (by simp)

theorem State.stepBase_writesTraced (s : State) (x : Half) : s.WritesTraced (s.stepBase x) := by
  unfold State.stepBase
  split
  · exact s.probe_writesTraced _ _
  · exact s.probe_writesTraced _ _

theorem State.stepSearch_writesTraced (s : State) (x : Half) : s.WritesTraced (s.stepSearch x) := by
  rcases s.stepSearch_cases x with ⟨-, e⟩ | ⟨-, -, e⟩ | ⟨-, -, e⟩ <;> rw [e]
  · exact State.writesTraced_of_nv_kept _ rfl (by simp) rfl (by simp)
  · exact State.writesTraced_of_nv_kept _ rfl (by simp) rfl (by simp)
  · exact s.probe_writesTraced _ _

/-- The end of a pass stores the winner if it differs from the stored byte (R134). -/
theorem State.stepNeigh_writesTraced (s : State) (x : Half) (hp : s.cal.phase = .neigh) :
    s.WritesTraced (s.stepNeigh x) := by
  rcases s.stepNeigh_cases x with ⟨j, -, e⟩ | ⟨-, e⟩ <;> rw [e]
  · exact State.writesTraced_of_nv_kept _ rfl (by simp) rfl (by simp)
  · rw [State.finishPass_eq]
    refine ⟨_, List.append_assoc _ _ _, by simp, ?_, ?_⟩
    · by_cases hn : (s.scoreCand x).best = s.nv <;> simp [hn]
    · by_cases hn : (s.scoreCand x).best = s.nv
      · simp [hn]
      · simp [hn, hp, Ne.symm hn]

/-- Settles O38: only the end of a pass writes the non-volatile byte; every other write is of the trim register,
with its event. -/
theorem trimAndNvWritesAreTraced : Obligations.TrimAndNvWritesAreTraced := by
  intro i s t h
  show s.WritesTraced t
  have hf := exec_frame h
  cases exec_effect h with
  | reset =>
    obtain ⟨events, he, hv⟩ := s.clearAll.loadTrim.configure_trace
    refine State.writesTraced_of_nv_kept (.trimWrite (bootTrim s.cfg s.nv) :: events) ?_ ?_ ?_ (by simpa using hv)
    · exact he.trans (List.append_assoc _ _ _)
    · rw [State.configure_eq]; simp [State.loadTrim, State.clearAll]
    · rw [State.configure_eq]; rfl
  | pollHw flags rxdata hb =>
    have hr : (s.hwReceive flags rxdata).trace = s.trace := by rw [State.hwReceive_frame]
    rw [hf]
    rcases (s.hwReceive flags rxdata).hwTransmit_cases flags with ⟨-, -, -, b, r, -, e⟩ | ⟨-, e⟩ <;> rw [e]
    · exact State.writesTraced_of_nv_kept [.periphTx b] (congrArg (· ++ _) hr) (absurd rfl) rfl (by simp)
    · exact State.writesTraced_of_nv_kept [] (by simpa [State.gateEval_eq] using hr) (absurd rfl) rfl
        (by simp)
  | startPass hp =>
    obtain ⟨events, he, hv⟩ := (s.setLc s.cfg.defaultLc).configure_trace
    refine State.writesTraced_of_nv_kept (events ++ [.measRequest]) ?_ ?_ ?_ (by simpa using hv)
    · simp [he]
    · rw [State.configure_eq]; simp
    · rw [State.configure_eq]; simp
  | restartPass hp =>
    obtain ⟨events, he, hv⟩ := (s.setLc s.cfg.defaultLc).configure_trace
    refine State.writesTraced_of_nv_kept (events ++ [.trimWrite s.cal.saved, .measRequest]) ?_ ?_ ?_
      (by simpa using hv)
    · simp [he]
    · simp
    · rw [State.configure_eq]; simp
  | measBase x hp => exact (s.stepBase_writesTraced x).reply _ _
  | measSplit x hp => exact (s.probe_writesTraced _ _).reply _ _
  | measSearch x hp => exact (s.stepSearch_writesTraced x).reply _ _
  | measNeigh x hp => exact (s.stepNeigh_writesTraced x hp).reply _ _
  | setLineCoding l =>
    obtain ⟨events, he, hv⟩ := (s.setLc l).configure_trace
    rw [hf]
    exact State.writesTraced_of_nv_kept events he (absurd rfl) rfl hv
  | _ =>
    rw [hf]
    exact State.writesTraced_of_nv_kept [] (by simp) (absurd rfl) rfl (by simp)

end Sys2Proof.Machine
end

section
/-! PROOFS. Buffers, gates and overflows (O13). -/

namespace Sys2Proof

/-- The constraints of R8 on the thresholds of the two gates. -/
theorem Cfg.thresholds (c : Cfg) :
    c.pktOut + c.outHeadroom + 1 < c.capOut ∧ c.inStopFree ≤ c.inResumeFree + 1 ∧
      c.inResumeFree + 1 < c.capIn := by
  obtain ⟨-, -, -, -, ho, hi, hi', -⟩ := c.valid
  exact ⟨ho, hi, hi'⟩

/-- The inbound space holds the store (R60: a report is at least one byte). -/
theorem Cfg.capIn_le_space (c : Cfg) : c.capIn ≤ c.capIn + c.pktIn - 1 := by
  obtain ⟨-, -, ⟨hp, -⟩, -⟩ := c.valid
  omega

end Sys2Proof

namespace Sys2Proof.Machine

/-! ### Canonical cells and masked indices (R60, R61) -/

theorem Ring.Ok.enqueue {r r' : Ring} {cap size : Nat} {b : Byte} (hr : r.Ok cap size) (hc : cap ∈ capacities)
    (hs : cap ≤ size) (h : r.enqueue cap b = some r') : r'.Ok cap size := by
  obtain ⟨hm, hw, hrd, -⟩ := hr
  obtain ⟨hm', hw'⟩ := Ring.enqueue_wf hc hs h hm hw
  obtain ⟨-, rfl⟩ := Ring.enqueue_eq_some.1 h
  exact ⟨hm', hw', hrd, advance_lt hc _ _⟩

theorem Ring.Ok.dequeue {r r' : Ring} {cap size : Nat} {b : Byte} (hr : r.Ok cap size) (hc : cap ∈ capacities)
    (h : r.dequeue cap = some (b, r')) : r'.Ok cap size := by
  obtain ⟨hm, hw, -, hwr⟩ := hr
  obtain ⟨-, -, rfl⟩ := Ring.dequeue_eq_some.1 h
  exact ⟨hm, hw, advance_lt hc _ _, hwr⟩

/-- A drain of `n` waiting bytes whose linear span fits the space (R60, R164, R165). -/
theorem Ring.Ok.drain {r : Ring} {cap n size : Nat} (hr : r.Ok cap size) (hc : cap ∈ capacities)
    (hn : n ≤ r.used cap) (hs : cap + n ≤ size + 1) : ((r.makeContiguous cap n).skip cap n).Ok cap size := by
  obtain ⟨hm, hw, hrd, hwr⟩ := hr
  obtain ⟨hm', hw', -⟩ := Ring.makeContiguous_spec hc hm hn
  exact ⟨hm', hw' size hw (by have := slot_lt hc r.rd; omega), advance_lt hc _ _, hwr⟩

theorem Ring.Ok.clear {r : Ring} {cap size : Nat} (hr : r.Ok cap size) (hc : cap ∈ capacities) :
    r.clear.Ok cap size := by
  have h2 := capacity_two_le hc
  exact ⟨hr.1, hr.2.1, by simp [Ring.clear]; omega, by simp [Ring.clear]; omega⟩

theorem State.txStart_buffersOk {s : State} (h : s.BuffersOk) : s.txStart.BuffersOk := by
  rcases s.txStart_cases with ⟨-, -, -, b, r, hd, e⟩ | ⟨-, e⟩ <;> rw [e]
  · exact ⟨h.1, h.2.dequeue s.cfg.capOut_mem hd⟩
  · exact h

theorem State.hwReceive_buffersOk {s : State} (flags rxdata : Byte) (h : s.BuffersOk) :
    (s.hwReceive flags rxdata).BuffersOk := by
  rcases s.hwReceive_cases flags rxdata with ⟨-, -, -, r, hq, e⟩ | ⟨-, -, -, e⟩ | ⟨-, e⟩ <;> rw [e]
  · exact ⟨h.1.enqueue s.cfg.capIn_mem s.cfg.capIn_le_space hq, h.2⟩
  · exact h
  · exact h

theorem State.hwTransmit_buffersOk {s : State} (flags : Byte) (h : s.BuffersOk) :
    (s.hwTransmit flags).2.BuffersOk := by
  rcases s.hwTransmit_cases flags with ⟨-, -, -, b, r, hd, e⟩ | ⟨-, e⟩ <;> rw [e]
  · exact ⟨h.1, h.2.dequeue s.cfg.capOut_mem hd⟩
  · exact h

theorem State.pushOut_buffersOk {s : State} (b : Byte) (h : s.BuffersOk) : (s.pushOut b).BuffersOk := by
  rcases s.pushOut_cases b with ⟨-, r, hq, e⟩ | ⟨-, e⟩ <;> rw [e]
  · exact ⟨h.1, h.2.enqueue s.cfg.capOut_mem le_rfl hq⟩
  · exact h

theorem State.foldl_pushOut_buffersOk (data : List Byte) {s : State} (h : s.BuffersOk) :
    (data.foldl State.pushOut s).BuffersOk := by
  induction data generalizing s with
  | nil => exact h
  | cons b rest ih => exact ih (State.pushOut_buffersOk b h)

theorem State.pushIn_buffersOk {s : State} (b : Byte) (h : s.BuffersOk) : (s.pushIn b).BuffersOk := by
  rcases s.pushIn_cases b with ⟨-, r, hq, e⟩ | ⟨-, e⟩ <;> rw [e]
  · exact ⟨h.1.enqueue s.cfg.capIn_mem s.cfg.capIn_le_space hq, h.2⟩
  · exact h

theorem State.rxEvents_buffersOk {s : State} (lvl : Bool) (h : s.BuffersOk) : (s.rxEvents lvl).BuffersOk := by
  rcases s.rxEvents_setRx_or_byte lvl with ⟨r, e⟩ | ⟨r, b, e⟩ <;> rw [e]
  · exact h
  · exact State.pushIn_buffersOk (s := s.setRx r) b h

theorem State.reportLen_le (s : State) : s.reportLen ≤ s.usedIn ∧ s.reportLen ≤ s.cfg.pktIn :=
  ⟨min_le_left _ _, min_le_right _ _⟩

theorem State.drainIn_buffersOk {s : State} (h : s.BuffersOk) : s.drainIn.BuffersOk := by
  obtain ⟨hu, hp⟩ := s.reportLen_le
  exact ⟨h.1.drain s.cfg.capIn_mem hu (by omega), h.2⟩

/-- Every operation keeps the cells canonical and the indices masked. -/
theorem exec_keeps_buffersOk {i : Instr} {s t : State} (h : exec i s = .next t) (hs : s.BuffersOk) :
    t.BuffersOk := by
  have hf := exec_frame h
  cases exec_effect h with
  | reset =>
    rw [State.configure_eq]
    exact ⟨hs.1.clear s.cfg.capIn_mem, hs.2.clear s.cfg.capOut_mem⟩
  | poll hb => exact State.txStart_buffersOk hs
  | pollHw flags rxdata hb => exact State.hwTransmit_buffersOk flags (State.hwReceive_buffersOk flags rxdata hs)
  | usbOut data hl ha => exact State.foldl_pushOut_buffersOk data hs
  | report hu => exact State.drainIn_buffersOk hs
  | tick hb => exact State.rxEvents_buffersOk (s := s.txTick) _ hs
  | _ => rw [hf]; exact hs

/-! ### Gates (R155 to R159) -/

/-- Outside the band the hysteresis forgets the old gate (R155). -/
theorem hyst_outside (g : Bool) {f stop resume : Nat} (h : stop ≤ resume + 1) :
    (f < stop → hyst g f stop resume = false) ∧ (f > resume → hyst g f stop resume = true) := by
  rcases hyst_cases g f stop resume with ⟨hf, e⟩ | ⟨hf, hf', e⟩ | ⟨hf, hf', e⟩
  · exact ⟨fun _ => e, by omega⟩
  · exact ⟨by omega, fun _ => e⟩
  · exact ⟨by omega, by omega⟩

/-- `gate_eval` brings the gates in line with the free counts, from any state (R156). -/
theorem State.gateEval_gatesOk (s : State) : s.gateEval.GatesOk := by
  obtain ⟨-, hin, -⟩ := s.cfg.thresholds
  obtain ⟨ho, ho'⟩ := hyst_outside s.usbAccept (f := s.freeOut) (stop := s.cfg.pktOut)
    (resume := s.cfg.pktOut + s.cfg.outHeadroom) (by omega)
  obtain ⟨hi, hi'⟩ := hyst_outside s.rts (f := s.freeIn) hin
  exact ⟨ho, ho', hi, hi'⟩

/-- Both gates open agrees with two empty rings (R51, R8). -/
theorem State.gatesOk_of_empty {s : State} (hi : s.usedIn = 0) (ho : s.usedOut = 0)
    (ha : s.usbAccept = true) (hr : s.rts = true) : s.GatesOk := by
  obtain ⟨h1, h2, h3⟩ := s.cfg.thresholds
  have hfo : s.freeOut = s.cfg.capOut - 1 := congrArg (s.cfg.capOut - 1 - ·) ho
  have hfi : s.freeIn = s.cfg.capIn - 1 := congrArg (s.cfg.capIn - 1 - ·) hi
  exact ⟨by omega, fun _ => ha, by omega, fun _ => hr⟩

theorem Ring.used_of_zero (m : Memory) (cap : Nat) : (Ring.mk m 0 0).used cap = 0 := by
  simp [Ring.used]

theorem State.rxEvents_gatesOk {s : State} (lvl : Bool) (h : s.GatesOk) : (s.rxEvents lvl).GatesOk := by
  rcases s.rxEvents_setRx_or_byte lvl with ⟨r, e⟩ | ⟨r, b, e⟩ <;> rw [e]
  · exact h
  · exact State.gateEval_gatesOk _

theorem State.drainIn_gatesOk (s : State) : s.drainIn.GatesOk := State.gateEval_gatesOk _

theorem State.rxTick_gatesOk {s : State} (h : s.GatesOk) : s.rxTick.GatesOk := by
  have hr := State.rxEvents_gatesOk s.rxLevel h
  unfold State.rxTick
  generalize s.rxEvents s.rxLevel = u at hr ⊢
  exact hr

/-- The gates' law speaks of the configuration, the rings and the two gates only. -/
theorem State.GatesOk.of_eq {s t : State} (h : s.GatesOk) (hcfg : t.cfg = s.cfg) (hin : t.rbIn = s.rbIn)
    (hout : t.rbOut = s.rbOut) (ha : t.usbAccept = s.usbAccept) (hr : t.rts = s.rts) : t.GatesOk := by
  unfold State.GatesOk State.freeIn State.freeOut
  rw [hcfg, hin, hout, ha, hr]
  exact h

/-- After every operation the gates agree with the free counts (R159). -/
theorem exec_keeps_gatesOk {i : Instr} {s t : State} (h : exec i s = .next t) (hs : s.GatesOk) : t.GatesOk := by
  have hf := exec_frame h
  cases exec_effect h with
  | reset =>
    rw [State.configure_eq]
    exact State.gatesOk_of_empty (Ring.used_of_zero _ _) (Ring.used_of_zero _ _) rfl rfl
  | poll hb => exact s.txStart.gateEval_gatesOk.of_eq rfl rfl rfl rfl rfl
  | pollHw flags rxdata hb =>
    have hg := ((s.hwReceive flags rxdata).hwTransmit flags).2.gateEval_gatesOk
    exact hg.of_eq rfl rfl rfl rfl rfl
  | usbOut data hl ha => exact (data.foldl State.pushOut s).gateEval_gatesOk.of_eq rfl rfl rfl rfl rfl
  | report hu => exact s.drainIn_gatesOk.of_eq rfl rfl rfl rfl rfl
  | tick hb => exact (State.rxTick_gatesOk (s := s.txTick) hs).of_eq rfl rfl rfl rfl rfl
  | pollUnavailable | pollHwUnavailable | usbOutTooLong | usbOutClosed | emptyReport | nothingToReport
    | tickUnavailable => exact hs.of_eq rfl rfl rfl rfl rfl
  | _ => rw [hf]; exact hs.of_eq rfl rfl rfl rfl rfl

/-! ### Overflows (R160, R264) -/

/-- The gate closes before a packet could find no room, so no operation overflows the outbound ring (R52 item 4). -/
theorem exec_keeps_no_ovfOut {i : Instr} {s t : State} (h : exec i s = .next t) (hg : s.GatesOk)
    (hs : s.ovfOut = false) : t.ovfOut = false := by
  obtain ⟨hstop, -⟩ := hg
  by_contra ht
  obtain ⟨-, -, hout, -⟩ := faultBitsAreSticky i s t h
  obtain ⟨data, rfl, ha, hfree⟩ := hout hs (by simpa using ht)
  cases exec_effect h with
  | usbOut data hl ha => simp [hstop (by omega)] at ha
  | usbOutTooLong data hl => exact ht hs
  | usbOutClosed data hl ha => exact ht hs

/-- The software backend records no inbound overflow (R264). -/
theorem exec_keeps_no_ovfIn {i : Instr} {s t : State} (h : exec i s = .next t) (hb : s.cfg.backend = .software)
    (hs : s.ovfIn = false) : t.ovfIn = false := by
  by_contra ht
  obtain ⟨-, -, -, hin⟩ := faultBitsAreSticky i s t h
  obtain ⟨flags, rxdata, -, hb', -⟩ := hin hs (by simpa using ht)
  simp [hb] at hb'

/-- Where no report can be full no empty report is owed (R52 item 8). -/
theorem exec_keeps_no_zlp {i : Instr} {s t : State} (h : exec i s = .next t) (hc : s.cfg.capIn ≤ s.cfg.pktIn)
    (hs : s.zlpPending = false) : t.zlpPending = false := by
  have hf := exec_frame h
  cases exec_effect h with
  | reset => rw [State.configure_eq]; rfl
  | report hu =>
    have hlt : s.usedIn < s.cfg.capIn := Ring.used_lt s.cfg.capIn_mem s.rbIn
    have := s.reportLen_le.1
    exact beq_false_of_ne (by omega)
  | emptyReport hu hz => rfl
  | nothingToReport hu hz => exact hs
  | _ => rw [hf]; exact hs

theorem exec_keeps_flowOk {i : Instr} {s t : State} (h : exec i s = .next t) (hs : s.FlowOk) : t.FlowOk := by
  obtain ⟨hg, ho, hi, hz⟩ := hs
  refine ⟨exec_keeps_gatesOk h hg, exec_keeps_no_ovfOut h hg ho, ?_, ?_⟩ <;> rw [exec_cfg h]
  · exact fun hb => exec_keeps_no_ovfIn h hb (hi hb)
  · exact fun hc => exec_keeps_no_zlp h hc (hz hc)

/-- Settles O13: every operation keeps each of the two, and neither speaks of the port or of the answer. -/
theorem stepKeepsBuffersAndGates : Obligations.StepKeepsBuffersAndGates := fun _ _ h hb hf =>
  step_keeps (P := fun s => s.BuffersOk ∧ s.FlowOk) (fun _ _ h => h) (fun _ _ _ h => h)
    (fun _ _ _ h hs => ⟨exec_keeps_buffersOk h hs.1, exec_keeps_flowOk h hs.2⟩) h ⟨hb, hf⟩

end Sys2Proof.Machine
end

section
/-! PROOFS. The timing, transmitter and receiver laws are kept by every step (O14). -/

namespace Sys2Proof.Machine

/-! ### Transmitter (R193 to R196) -/

/-- The transmitter at reset (R51). -/
theorem Tx.ok_idle (invert : Bool) : Tx.Ok ⟨true, 0x3FF, 0, 0, true ^^ invert⟩ invert := by
  cases invert <;> decide

/-- The receiver at reset (R51). -/
theorem Rx.ok_idle : Rx.Ok ⟨0, 0, 0, true⟩ := by decide

/-- `tx_start` loads an idle transmitter: the line is still at its idle level, and of the frame only the stop bit
need be 1 (R193). -/
theorem Tx.Ok.load {t : Tx} {invert : Bool} (h : t.Ok invert) (hi : t.idle = true) (ocr : BitVec 16) (b : Byte) :
    (t.load ocr b).Ok invert := by
  obtain ⟨hidle, -, -, -, -, hline⟩ := h
  have hp := bitPeriod_toNat ocr
  have hidle' : t.txd = (true ^^ invert) := hline (.inl (by simp [hidle.1 hi]))
  refine ⟨by simp [Tx.load], ?_, by simp [Tx.load], ?_, ?_, fun _ => hidle'⟩
  · exact iff_of_false (bitPeriod_ne_zero ocr) (by simp [Tx.load])
  · show (bitPeriod ocr).toNat ≤ 65536
    omega
  · intro i _ hlt
    have hz : i = 0 := by simp [Tx.load] at hlt; omega
    rw [hz]
    exact frame_getLsbD b 0 (by decide)

/-- One bit driven, the next one moved up and a 1 shifted in (R196). -/
theorem Tx.Ok.bit {t : Tx} {invert : Bool} (h : t.Ok invert) (hl : 1 < t.left) (ocr : BitVec 16) :
    Tx.Ok ⟨t.idle, (t.frame <<< 1) ||| 1, t.left - 1, bitPeriod ocr, t.frame.getLsbD 9 ^^ invert⟩ invert := by
  obtain ⟨hidle, -, hleft, -, hones, -⟩ := h
  have hl' : (t.left - 1).toNat + 1 = t.left.toNat := by bv_omega
  have hl0 : t.left - 1 ≠ 0 := by bv_omega
  have hi : t.idle ≠ true := fun hi => by have := hidle.1 hi; bv_omega
  have hp := bitPeriod_toNat ocr
  refine ⟨iff_of_false hi hl0, iff_of_false (bitPeriod_ne_zero ocr) hl0, ?_, ?_, ?_, ?_⟩
  · show (t.left - 1).toNat ≤ 11
    omega
  · show (bitPeriod ocr).toNat ≤ 65536
    omega
  · rintro (_ | i) hi10 hlt
    · simp
    · have hi10' := List.mem_range.1 hi10
      have hlt' : i + 1 + (t.left - 1).toNat < 12 := hlt
      have := hones i (List.mem_range.2 (by omega)) (by omega)
      simpa [BitVec.getLsbD_shiftLeft, this] using hi10'
  · intro hend
    have hend' : (t.left - 1).toNat ≤ 1 ∨ (t.left - 1).toNat = 11 := hend
    have := hones 9 (by simp) (by omega)
    rw [this]

/-- The transmitter's part of a TICK (R200). -/
theorem Tx.Ok.tick {t : Tx} {invert : Bool} (h : t.Ok invert) (ocr : BitVec 16) : (t.tick invert ocr).Ok invert := by
  have hbit := fun hl => h.bit hl ocr
  obtain ⟨hidle, hcnt, hleft, hmax, hones, hline⟩ := h
  rcases t.tick_cases invert ocr with ⟨-, e⟩ | ⟨hl, hc, e⟩ | ⟨hl, -, e⟩ | ⟨hl, -, e⟩ <;> rw [e]
  · exact ⟨hidle, hcnt, hleft, hmax, hones, hline⟩
  · have h0 : t.cnt ≠ 0 := fun h => hl (hcnt.1 h)
    have h1 : t.cnt - 1 ≠ 0 := by bv_omega
    have hle : (t.cnt - 1).toNat ≤ 65536 := by bv_omega
    exact ⟨hidle, iff_of_false h1 hl, hleft, hle, hones, hline⟩
  · exact hbit hl
  · refine ⟨by simp, by simp, by simp, by simp, fun i hi _ => hones i hi ?_, fun _ => hline (.inl (by simp [hl]))⟩
    have := List.mem_range.1 hi
    simp [hl]
    omega

/-! ### Receiver (R204 to R209) -/

/-- The receiver's events of a TICK, with a first offset in its range (R34, R200). -/
theorem State.rxEvents_rxOk {s : State} (lvl : Bool) (h : s.rx.Ok) (hf : s.first ≠ 0 ∧ s.first.toNat ≤ 81920) :
    (s.rxEvents lvl).rx.Ok := by
  obtain ⟨hcnt, hleft, hmax⟩ := h
  have hp := bitPeriod_toNat s.ocr
  rcases s.rxEvents_cases lvl with ⟨-, -, e⟩ | ⟨-, -, -, e⟩ | ⟨hl, hc, e⟩ | ⟨hl, hl', -, e⟩ | ⟨-, -, e⟩ <;> rw [e]
  · exact ⟨hcnt, hleft, hmax⟩
  · exact ⟨iff_of_false hf.1 (by simp), by simp, hf.2⟩
  · have h0 : s.rx.cnt ≠ 0 := fun h => hl (hcnt.1 h)
    have h1 : s.rx.cnt - 1 ≠ 0 := by bv_omega
    have hle : (s.rx.cnt - 1).toNat ≤ 81920 := by bv_omega
    exact ⟨iff_of_false h1 hl, hleft, hle⟩
  · have h1 : s.rx.left - 1 ≠ 0 := by bv_omega
    have hle : (s.rx.left - 1).toNat ≤ 8 := by bv_omega
    have hle' : (bitPeriod s.ocr).toNat ≤ 81920 := by omega
    exact ⟨iff_of_false (bitPeriod_ne_zero _) h1, hle, hle'⟩
  · rw [State.gateEval_eq, State.pushIn_frame]
    exact ⟨by simp, by simp, by simp⟩

/-! ### Timing (R33, R34, R191) -/

/-- The first offset is at least one tick and at most 1.25 times the longest bit period. -/
theorem State.TimingOk.first_range {s : State} (h : s.TimingOk) : s.first ≠ 0 ∧ s.first.toNat ≤ 81920 := by
  obtain ⟨-, hf⟩ := h
  have hlt := s.ocr.isLt
  have hpos : s.first.toNat ≠ 0 := by omega
  exact ⟨fun h0 => hpos (by rw [h0]; rfl), by omega⟩

/-! ### All engines -/

/-- `configure` brings the timing in line with the line coding and touches neither engine (R191, R211). -/
theorem State.configure_enginesOk {s : State} (htx : s.tx.Ok s.cfg.invert) (hrx : s.rx.Ok)
    (hhw : s.cfg.backend = .hardware → s.EngineIdle) : s.configure.EnginesOk := by
  rw [State.configure_eq]
  exact ⟨⟨rfl, firstOffset_toNat _⟩, htx, hrx, hhw⟩

/-- `tx_start` under the software backend (R193). -/
theorem State.txStart_enginesOk {s : State} (hb : s.cfg.backend = .software) (h : s.EnginesOk) :
    s.txStart.EnginesOk := by
  obtain ⟨htime, htx, hrx, hhw⟩ := h
  rcases s.txStart_cases with ⟨hi, -, -, b, r, -, e⟩ | ⟨-, e⟩ <;> rw [e]
  · exact ⟨htime, htx.load hi _ _, hrx, by simp [hb]⟩
  · exact ⟨htime, htx, hrx, hhw⟩

/-- The engines' TICK under the software backend (R200). -/
theorem State.rxTick_txTick_enginesOk {s : State} (hb : s.cfg.backend = .software) (h : s.EnginesOk) :
    s.txTick.rxTick.EnginesOk := by
  obtain ⟨htime, htx, hrx, -⟩ := h
  have hrx' := State.rxEvents_rxOk (s := s.txTick) s.txTick.rxLevel hrx htime.first_range
  rw [State.rxTick, State.rxEvents_frame]
  exact ⟨htime, htx.tick s.ocr, hrx', by simp [hb, State.txTick, State.followLine]⟩

/-- The laws speak of the configuration, the line coding, the timing and the two engines only. -/
theorem State.EnginesOk.of_eq {s t : State} (h : s.EnginesOk) (hcfg : t.cfg = s.cfg) (hlc : t.lc = s.lc)
    (hocr : t.ocr = s.ocr) (hfirst : t.first = s.first) (htx : t.tx = s.tx) (hrx : t.rx = s.rx) : t.EnginesOk := by
  unfold State.EnginesOk State.TimingOk State.EngineIdle
  rw [hcfg, hlc, hocr, hfirst, htx, hrx]
  exact h

/-- Every operation keeps the laws of timing, transmitter and receiver. -/
theorem exec_keeps_enginesOk {i : Instr} {s t : State} (h : exec i s = .next t) (hs : s.EnginesOk) :
    t.EnginesOk := by
  have hf := exec_frame h
  have ⟨_, htx, hrx, hhw⟩ := hs
  have hlc := fun l => State.configure_enginesOk (s := s.setLc l) htx hrx hhw
  cases exec_effect h with
  | reset =>
    have hr := State.configure_enginesOk (s := s.clearAll.loadTrim) (Tx.ok_idle _) Rx.ok_idle
      fun _ => ⟨rfl, rfl⟩
    exact hr.of_eq rfl rfl rfl rfl rfl rfl
  | poll hb => exact (State.txStart_enginesOk hb hs).of_eq rfl rfl rfl rfl rfl rfl
  | startPass hp => exact (hlc s.cfg.defaultLc).of_eq rfl rfl rfl rfl rfl rfl
  | restartPass hp => exact (hlc s.cfg.defaultLc).of_eq rfl rfl rfl rfl rfl rfl
  | setLineCoding l => exact (hlc l).of_eq rfl rfl rfl rfl rfl rfl
  | tick hb => exact (State.rxTick_txTick_enginesOk hb hs).of_eq rfl rfl rfl rfl rfl rfl
  | _ => rw [hf]; exact hs

/-- Settles O14: only `configure`, `tx_start` and the two halves of a TICK bear on these elements. -/
theorem stepKeepsEngines : Obligations.StepKeepsEngines := fun _ _ =>
  step_keeps (fun _ _ h => h) (fun _ _ _ h => h) (fun _ _ _ => exec_keeps_enginesOk)

end Sys2Proof.Machine
end

section
/-! PROOFS. A calibration pass stays inside its range (O15). -/

namespace Sys2Proof

theorem Cfg.two_pow_k (c : Cfg) : 2 ^ c.k = 2 ^ (c.k - 1) + 2 ^ (c.k - 1) := by
  have hk : c.k = c.k - 1 + 1 := (Nat.sub_add_cancel c.k_pos).symm
  conv_lhs => rw [hk, Nat.pow_succ, Nat.mul_two]

end Sys2Proof

namespace Sys2Proof.Machine

/-- A value in range, however it was computed, is written as it is (R138 item 3). -/
theorem trimOf_toNat_of_eq (c : Cfg) {z : Int} {n : Nat} (hz : z = n) (h : n < 2 ^ c.trimBits) :
    (trimOf c z).toNat = n := by
  subst hz
  exact trimOf_toNat c n (Int.natCast_nonneg n) (by exact_mod_cast h)

/-! ### What each phase asks for -/

/-- The state of a running search (R130): the trial is applied, and a step of `2^j` either way stays in the range. -/
def State.Searching (s : State) : Prop :=
  s.BaseOk ∧ s.osctrim = s.cal.trial ∧ (∃ j ∈ List.range s.cfg.k, s.cal.step.toNat = 2 ^ j) ∧
    s.cal.base.toNat + s.cal.step.toNat ≤ s.cal.trial.toNat ∧
    s.cal.trial.toNat + s.cal.step.toNat ≤ s.cal.base.toNat + 2 ^ s.cfg.k

/-- From the values of step and trial. -/
theorem State.searching_of_values {s : State} {j n : Nat} (hb : s.BaseOk) (ho : s.osctrim = s.cal.trial)
    (hj : j < s.cfg.k) (hstep : s.cal.step.toNat = 2 ^ j) (htrial : s.cal.trial.toNat = n)
    (hlo : s.cal.base.toNat + 2 ^ j ≤ n) (hhi : n + 2 ^ j ≤ s.cal.base.toNat + 2 ^ s.cfg.k) : s.Searching :=
  ⟨hb, ho, ⟨j, List.mem_range.2 hj, hstep⟩, by omega, by omega⟩

/-- A value lies in the searched range (R44). -/
def State.InRange (s : State) (n : Nat) : Prop :=
  s.cal.base.toNat ≤ n ∧ n < s.cal.base.toNat + 2 ^ s.cfg.k

theorem State.InRange.trim {s : State} {n : Nat} (h : s.InRange n) (hb : s.BaseOk) : n < 2 ^ s.cfg.trimBits :=
  h.2.trans_le (s.base_add_le hb)

theorem State.calOk_of_idle {s : State} (hp : s.cal.phase = .idle) (ht : s.TrimsOk) : s.CalOk :=
  ⟨ht, by simp [hp], by simp [hp], by simp [hp], by simp [hp]⟩

theorem State.calOk_of_base {s : State} (hp : s.cal.phase = .base) (ht : s.TrimsOk) (h : s.osctrim = s.cal.saved) :
    s.CalOk :=
  ⟨ht, fun _ => h, by simp [hp], by simp [hp], by simp [hp]⟩

theorem State.calOk_of_splitp {s : State} (hp : s.cal.phase = .splitp) (ht : s.TrimsOk)
    (h : s.cfg.split = true ∧ s.osctrim = s.cfg.splitProbe) : s.CalOk :=
  ⟨ht, by simp [hp], fun _ => h, by simp [hp], by simp [hp]⟩

theorem State.calOk_of_searching {s : State} (hp : s.cal.phase = .search)
    (hs : s.cal.saved.toNat < 2 ^ s.cfg.trimBits) (hbest : s.cal.best.toNat < 2 ^ s.cfg.trimBits) (h : s.Searching) : s.CalOk := by
  refine ⟨⟨?_, hs, hbest⟩, by simp [hp], by simp [hp], fun _ => h, by simp [hp]⟩
  obtain ⟨hb, ho, ⟨j, -, hj⟩, -, hhi⟩ := h
  have : 0 < 2 ^ j := by positivity
  have := s.base_add_le hb
  rw [ho]
  omega

/-- An admissible candidate, written to the trim register, is itself (R132, R138 item 3). -/
theorem State.trimOf_cand {s : State} {i : Nat} (hb : s.BaseOk) (ha : s.cal.admissible s.cfg.k i = true) :
    (trimOf s.cfg (s.cal.cand i)).toNat + 2 = s.cal.coarse.toNat + i ∧
      s.InRange (trimOf s.cfg (s.cal.cand i)).toNat := by
  have hmax := s.base_add_le hb
  obtain ⟨hlo, hhi⟩ := Cal.admissible_iff.1 ha
  have hpow : (2 : Int) ^ s.cfg.k = (2 ^ s.cfg.k : Nat) := by push_cast; rfl
  rw [hpow] at hhi
  rw [trimOf_toNat_of_eq s.cfg (z := s.cal.cand i) (n := s.cal.coarse.toNat + i - 2)
    (by simp only [Cal.cand]; omega) (by omega)]
  exact ⟨by omega, by omega, by omega⟩

/-- The state with candidate `i` applied (R132, R133). -/
theorem State.calOk_of_candidate {s : State} {i : Nat} (hp : s.cal.phase = .neigh)
    (hs : s.cal.saved.toNat < 2 ^ s.cfg.trimBits) (hb : s.BaseOk)
    (hc : s.cal.base.toNat < s.cal.coarse.toNat ∧ s.cal.coarse.toNat < s.cal.base.toNat + 2 ^ s.cfg.k)
    (hbest : s.InRange s.cal.best.toNat) (hi : i < 5) (ha : s.cal.admissible s.cfg.k i = true)
    (hidx : s.cal.idx = BitVec.ofNat 3 i) (ho : s.osctrim = trimOf s.cfg (s.cal.cand i)) : s.CalOk := by
  obtain ⟨hcand, hrange⟩ := State.trimOf_cand hb ha
  have hidx' : s.cal.idx.toNat = i := by rw [hidx, BitVec.toNat_ofNat]; omega
  rw [← ho] at hcand hrange
  exact ⟨⟨hrange.trim hb, hs, hbest.trim hb⟩, by simp [hp], by simp [hp], by simp [hp],
    fun _ => ⟨hb, by omega, by omega, hc, hrange, hbest⟩⟩

/-! ### The steps of a pass -/

/-- The search starts in the middle of its range (R129). -/
theorem State.beginSearch_calOk {s : State} (hs : s.cal.saved.toNat < 2 ^ s.cfg.trimBits)
    (hbest : s.cal.best.toNat < 2 ^ s.cfg.trimBits) (hb : s.BaseOk) : s.beginSearch.CalOk := by
  have hmax := s.base_add_le hb
  have hhalf := s.cfg.two_pow_k
  have hpos : 0 < 2 ^ (s.cfg.k - 1) := by positivity
  have hhi : s.cal.base.toNat + 2 ^ (s.cfg.k - 1) + 2 ^ (s.cfg.k - 1) ≤ s.cal.base.toNat + 2 ^ s.cfg.k := by omega
  rw [State.beginSearch_eq]
  exact State.calOk_of_searching rfl hs hbest (State.searching_of_values (j := s.cfg.k - 1) hb rfl
    (Nat.sub_one_lt_of_lt s.cfg.k_pos)
    (trimOf_toNat_of_eq s.cfg (by push_cast; rfl) (by omega))
    (trimOf_toNat_of_eq s.cfg (n := s.cal.base.toNat + 2 ^ (s.cfg.k - 1)) (by push_cast; rfl) (by omega))
    le_rfl hhi)

/-- The first measurement of a pass (R127). -/
theorem State.stepBase_calOk {s : State} (x : Half) (h : s.CalOk) : (s.stepBase x).CalOk := by
  obtain ⟨⟨-, hs, hbest⟩, -⟩ := h
  obtain ⟨-, -, -, -, -, -, -, -, -, -, -, hprobe, -⟩ := s.cfg.valid
  unfold State.stepBase
  split
  · exact State.calOk_of_splitp rfl ⟨hprobe, hs, hbest⟩ ⟨‹_›, rfl⟩
  · exact State.beginSearch_calOk hs hbest (.inl rfl)

/-- The probe's measurement chooses a half of the trim range (R128). -/
theorem State.stepSplit_calOk {s : State} (x : Half) (hp : s.cal.phase = .splitp) (h : s.CalOk) :
    (s.stepSplit x).CalOk := by
  obtain ⟨⟨-, hs, hbest⟩, -, hsplit, -⟩ := h
  obtain ⟨hsp, -⟩ := hsplit hp
  refine State.beginSearch_calOk hs hbest ?_
  by_cases hx : x < s.cfg.target
  · have hk := s.cfg.k_add_split
    have hlt : 2 ^ s.cfg.k < 2 ^ s.cfg.trimBits :=
      Nat.pow_lt_pow_right (by decide) (by rw [hsp, Bool.toNat_true] at hk; omega)
    have hupper := trimOf_toNat_of_eq s.cfg (z := 2 ^ s.cfg.k) (n := 2 ^ s.cfg.k) (by push_cast; rfl) hlt
    exact .inr ⟨hsp, by simpa [hx] using hupper⟩
  · exact .inl (by simp [hx])

/-- A search step moves the trial by half the step and stays inside the range (R130). -/
theorem State.searching_nextTrial {s : State} (x : Half) (h : s.Searching) (h2 : 2 ≤ s.cal.step.toNat) :
    State.Searching { s with
      osctrim := s.nextTrial x (s.cal.step >>> 1)
      cal := { s.cal with trial := s.nextTrial x (s.cal.step >>> 1), step := s.cal.step >>> 1 } } := by
  obtain ⟨hb, -, ⟨j, hj, hstep⟩, hlo, hhi⟩ := h
  obtain ⟨j, rfl⟩ : ∃ i, j = i + 1 := Nat.exists_eq_succ_of_ne_zero (by rintro rfl; omega)
  have hj' := List.mem_range.1 hj
  have hmax := s.base_add_le hb
  rw [Nat.pow_succ] at hstep
  have hhalf : (s.cal.step >>> 1).toNat = 2 ^ j := by
    rw [BitVec.toNat_ushiftRight, hstep]; omega
  have hjk : j < s.cfg.k := by omega
  obtain ⟨n, htrial, hlo', hhi'⟩ : ∃ n, (s.nextTrial x (s.cal.step >>> 1)).toNat = n ∧
      s.cal.base.toNat + 2 ^ j ≤ n ∧ n + 2 ^ j ≤ s.cal.base.toNat + 2 ^ s.cfg.k := by
    unfold State.nextTrial
    rw [hhalf]
    split_ifs
    · exact ⟨s.cal.trial.toNat + 2 ^ j, trimOf_toNat_of_eq s.cfg (by omega) (by omega), by omega, by omega⟩
    · exact ⟨s.cal.trial.toNat - 2 ^ j, trimOf_toNat_of_eq s.cfg (by omega) (by omega), by omega, by omega⟩
  exact State.searching_of_values hb rfl hjk hhalf htrial hlo' hhi'

/-- The neighbourhood of an optimum inside its range starts at an admissible candidate: the optimum itself is one
(R132). -/
theorem State.beginNeigh_calOk {s : State} (hs : s.cal.saved.toNat < 2 ^ s.cfg.trimBits) (hb : s.BaseOk)
    (hc : s.cal.base.toNat < s.cal.coarse.toNat ∧ s.cal.coarse.toNat < s.cal.base.toNat + 2 ^ s.cfg.k) :
    s.beginNeigh.CalOk := by
  have hpow : (2 : Int) ^ s.cfg.k = (2 ^ s.cfg.k : Nat) := by push_cast; rfl
  have hcoarse : s.cal.admissible s.cfg.k 2 = true := Cal.admissible_iff.2 ⟨by omega, by rw [hpow]; omega⟩
  cases hn : s.cal.nextCand s.cfg.k 0 with
  | none =>
    have := Cal.nextCand_eq_none.1 hn 2 (by decide) (by decide)
    simp [hcoarse] at this
  | some i =>
    obtain ⟨-, hi, ha, -⟩ := Cal.nextCand_eq_some.1 hn
    rw [State.beginNeigh_eq hn]
    exact State.calOk_of_candidate rfl hs hb hc ⟨hc.1.le, hc.2⟩ hi ha rfl rfl

theorem State.stepSearch_calOk {s : State} (x : Half) (hp : s.cal.phase = .search) (h : s.CalOk) :
    (s.stepSearch x).CalOk := by
  obtain ⟨⟨-, hs, hbest⟩, -, -, hsearch, -⟩ := h
  have hsearching : s.Searching := hsearch hp
  rcases s.stepSearch_cases x with ⟨h2, e⟩ | ⟨-, -, e⟩ | ⟨-, -, e⟩ <;> rw [e]
  · exact State.calOk_of_searching hp hs hbest (State.searching_nextTrial x hsearching h2)
  · exact State.calOk_of_idle rfl ⟨hs, hs, hbest⟩
  · obtain ⟨hb, -, ⟨j, -, hj⟩, hlo, hhi⟩ := hsearching
    have hpos : 0 < 2 ^ j := by positivity
    have hc : s.cal.base.toNat < s.cal.trial.toNat ∧ s.cal.trial.toNat < s.cal.base.toNat + 2 ^ s.cfg.k := by omega
    exact State.beginNeigh_calOk (s := s.setCal _) hs hb hc

/-- The better candidate lies in the range, being the trim just measured or the earlier best (R133). -/
theorem State.scoreCand_inRange {s : State} (x : Half) (hb : s.BaseOk) (hbest : s.InRange s.cal.best.toNat)
    (ho : s.osctrim.toNat + 2 = s.cal.coarse.toNat + s.cal.idx.toNat) (hrange : s.InRange s.osctrim.toNat) :
    s.InRange (s.scoreCand x).best.toNat := by
  unfold State.scoreCand
  split
  · rw [trimOf_toNat_of_eq s.cfg (n := s.osctrim.toNat) (by simp only [Cal.cand]; omega) (hrange.trim hb)]
    exact hrange
  · exact hbest

theorem State.stepNeigh_calOk {s : State} (x : Half) (hp : s.cal.phase = .neigh) (h : s.CalOk) :
    (s.stepNeigh x).CalOk := by
  obtain ⟨⟨-, hs, -⟩, -, -, -, hneigh⟩ := h
  obtain ⟨hb, -, ho, hc, hrange, hbest⟩ := hneigh hp
  have hscore := State.scoreCand_inRange x hb hbest ho hrange
  have hkept : s.scoreCand x = { s.cal with best := (s.scoreCand x).best, bestDev := (s.scoreCand x).bestDev } := by
    unfold State.scoreCand
    split <;> rfl
  rcases s.stepNeigh_cases x with ⟨j, hn, e⟩ | ⟨-, e⟩ <;> rw [e]
  · obtain ⟨-, hj, ha, -⟩ := Cal.nextCand_eq_some.1 hn
    rw [hkept]
    exact State.calOk_of_candidate hp hs hb hc hscore hj ha rfl rfl
  · rw [State.finishPass_eq, hkept]
    exact State.calOk_of_idle rfl ⟨hscore.trim hb, hs, hscore.trim hb⟩

/-- Every operation keeps a pass inside its range. -/
theorem exec_keeps_calOk {i : Instr} {s t : State} (h : exec i s = .next t) (hs : s.CalOk) : t.CalOk := by
  have hf := exec_frame h
  have ⟨htrims, _⟩ := hs
  obtain ⟨ho, hsaved, hbest⟩ := htrims
  cases exec_effect h with
  | reset =>
    have hpos : 0 < 2 ^ s.cfg.trimBits := by positivity
    rw [State.configure_eq]
    exact State.calOk_of_idle rfl ⟨bootTrim_lt _ _, hpos, hpos⟩
  | startPass hp =>
    rw [State.configure_eq]
    exact State.calOk_of_base rfl ⟨ho, ho, hbest⟩ rfl
  | restartPass hp =>
    rw [State.configure_eq]
    exact State.calOk_of_base rfl ⟨hsaved, hsaved, hbest⟩ rfl
  | measIdle x hp => exact hs
  | measBase x hp => exact State.stepBase_calOk x hs
  | measSplit x hp => exact State.stepSplit_calOk x hp hs
  | measSearch x hp => exact State.stepSearch_calOk x hp hs
  | measNeigh x hp => exact State.stepNeigh_calOk x hp hs
  | _ => rw [hf]; exact hs

/-- Settles O15: only RESET, BUS_RESET and the steps of a pass bear on these elements. -/
theorem stepKeepsCalibration : Obligations.StepKeepsCalibration := fun _ _ =>
  step_keeps (fun _ _ h => h) (fun _ _ _ h => h) (fun _ _ _ => exec_keeps_calOk)

end Sys2Proof.Machine
end

section
/-! PROOFS. The state after RESET (O11, O12). -/

namespace Sys2Proof.Machine

/-- A stored trim is loaded with its low bits (R291). -/
theorem bootTrim_toNat_of_ne (c : Cfg) {nv : Byte} (h : nv ≠ 0xFF) :
    (bootTrim c nv).toNat = nv.toNat % 2 ^ c.trimBits := by
  have hle := Nat.mod_le nv.toNat (2 ^ c.trimBits)
  rw [bootTrim, if_neg h, trimOf, ← Int.natCast_mod, Int.toNat_natCast, BitVec.toNat_ofNat]
  omega

/-- Settles O11: RESET is `load_trim` and `configure` after the table of R51. -/
theorem resetLeavesListedValues : Obligations.ResetLeavesListedValues := by
  intro s
  refine ⟨_, rfl, ?_⟩
  rw [State.configure_eq]
  refine ⟨rfl, firstOffset_toNat _, fun h => if_pos h, bootTrim_toNat_of_ne s.cfg, ?_⟩
  cases hb : s.cfg.backend <;> simp [State.loadTrim, State.clearAll, hb]

/-- Nothing listed and both indices 0 (R51). -/
theorem Ring.ok_of_empty {cap : Nat} (hc : cap ∈ capacities) (size : Nat) : (Ring.mk [] 0 0).Ok cap size := by
  have hpos : 0 < cap := by have := capacity_two_le hc; omega
  exact ⟨⟨.nil, by simp⟩, by simp, hpos, hpos⟩

/-- Settles O12. -/
theorem resetSatisfiesInvariants : Obligations.ResetSatisfiesInvariants := by
  intro c nv
  have hpos : 0 < 2 ^ c.trimBits := by positivity
  refine ⟨⟨Ring.ok_of_empty c.capIn_mem _, Ring.ok_of_empty c.capOut_mem _⟩,
    ⟨?_, rfl, fun _ => rfl, fun _ => rfl⟩,
    ⟨⟨rfl, firstOffset_toNat _⟩, Tx.ok_idle _, ?_, fun _ => ⟨rfl, rfl⟩⟩, ?_⟩
  · exact State.gatesOk_of_empty (Ring.used_of_zero _ _) (Ring.used_of_zero _ _) rfl rfl
  · exact Rx.ok_idle
  · exact State.calOk_of_idle rfl ⟨bootTrim_lt _ _, hpos, hpos⟩

end Sys2Proof.Machine
end

section
/-! PROOFS. No operation reads a cell outside the occupied spans (O28): two states that differ only there are
answered alike, operation by operation, and go on differing only there. -/

namespace Sys2Proof.Machine

/-! ### Rings that agree on what waits -/

/-- The byte dequeued is the oldest, and the rest waits on (R153, R77). -/
theorem Ring.dequeue_contents {r r' : Ring} {cap : Nat} {b : Byte} (hc : cap ∈ capacities)
    (h : r.dequeue cap = some (b, r')) : r.contents cap = b :: r'.contents cap := by
  obtain ⟨hu, rfl, rfl⟩ := Ring.dequeue_eq_some.1 h
  have hlen : 0 < (r.contents cap).length := by rw [Ring.contents_length]; omega
  have hhead : (r.contents cap)[0] = Memory.read r.mem (slot cap r.rd) := by
    rw [Ring.contents_getElem, Nat.add_zero, Nat.mod_eq_of_lt (slot_lt hc _)]
  have htail : (r.skip cap 1).contents cap = (r.contents cap).drop 1 := Ring.contents_skip hc (by omega)
  rw [← hhead]
  exact ((congrArg _ htail).trans (List.getElem_cons_drop hlen)).symm

/-- An accepted byte waits behind the others (R152, R77). -/
theorem Ring.enqueue_contents {r r' : Ring} {cap : Nat} {b : Byte} (hc : cap ∈ capacities) (hm : Memory.wf r.mem)
    (h : r.enqueue cap b = some r') : r'.contents cap = r.contents cap ++ [b] := by
  obtain ⟨hf, rfl⟩ := Ring.enqueue_eq_some.1 h
  exact Ring.contents_push hc hm hf

theorem Ring.SameLive.used_eq {r r' : Ring} {cap : Nat} (h : r.SameLive r' cap) : r'.used cap = r.used cap := by
  obtain ⟨hrd, hwr, -⟩ := h
  rw [Ring.used, Ring.used, hrd, hwr]

theorem Ring.SameLive.free_eq {r r' : Ring} {cap : Nat} (h : r.SameLive r' cap) : r'.free cap = r.free cap := by
  rw [Ring.free, Ring.free, h.used_eq]

theorem Ring.SameLive.enqueue {r r' : Ring} {cap : Nat} (h : r.SameLive r' cap) (hc : cap ∈ capacities)
    (hm : Memory.wf r.mem) (hm' : Memory.wf r'.mem) (b : Byte) :
    (r.enqueue cap b = none ∧ r'.enqueue cap b = none) ∨
      ∃ q q', r.enqueue cap b = some q ∧ r'.enqueue cap b = some q' ∧ q.SameLive q' cap := by
  by_cases hf : r.free cap = 0
  · exact .inl ⟨Ring.enqueue_eq_none.2 hf, Ring.enqueue_eq_none.2 (h.free_eq.trans hf)⟩
  · have hq := Ring.enqueue_eq_some (b := b).2 ⟨hf, rfl⟩
    have hq' := Ring.enqueue_eq_some (b := b).2 ⟨h.free_eq.trans_ne hf, rfl⟩
    obtain ⟨hrd, hwr, hcont⟩ := h
    refine .inr ⟨_, _, hq, hq', hrd, congrArg (advance cap · 1) hwr, ?_⟩
    rw [Ring.enqueue_contents hc hm hq, Ring.enqueue_contents hc hm' hq', hcont]

theorem Ring.SameLive.dequeue {r r' : Ring} {cap : Nat} (h : r.SameLive r' cap) (hc : cap ∈ capacities) :
    (r.dequeue cap = none ∧ r'.dequeue cap = none) ∨
      ∃ b q q', r.dequeue cap = some (b, q) ∧ r'.dequeue cap = some (b, q') ∧ q.SameLive q' cap := by
  by_cases hu : r.used cap = 0
  · exact .inl ⟨Ring.dequeue_eq_none.2 hu, Ring.dequeue_eq_none.2 (h.used_eq.trans hu)⟩
  · have hq := Ring.dequeue_eq_some.2 ⟨hu, rfl, rfl⟩
    have hq' := Ring.dequeue_eq_some.2 ⟨h.used_eq.trans_ne hu, rfl, rfl⟩
    obtain ⟨hrd, hwr, hcont⟩ := h
    rw [Ring.dequeue_contents hc hq, Ring.dequeue_contents hc hq', List.cons.injEq] at hcont
    rw [← hcont.1] at hq'
    exact .inr ⟨_, _, _, hq, hq', congrArg (advance cap · 1) hrd, hwr, hcont.2⟩

/-- A drain leaves the same bytes waiting. -/
theorem Ring.SameLive.drain {r r' : Ring} {cap n : Nat} (h : r.SameLive r' cap) (hc : cap ∈ capacities)
    (hm : Memory.wf r.mem) (hm' : Memory.wf r'.mem) (hn : n ≤ r.used cap) :
    ((r.makeContiguous cap n).skip cap n).SameLive ((r'.makeContiguous cap n).skip cap n) cap := by
  have hn' : n ≤ r'.used cap := h.used_eq ▸ hn
  obtain ⟨hrd, hwr, hcont⟩ := h
  refine ⟨congrArg (advance cap · n) hrd, hwr, ?_⟩
  rw [Ring.contents_skip (r := r.makeContiguous cap n) hc hn,
    Ring.contents_skip (r := r'.makeContiguous cap n) hc hn', Ring.contents_makeContiguous hc hm hn,
    Ring.contents_makeContiguous hc hm' hn', hcont]

/-! ### States that differ in idle cells -/

/-- The state with other rings. -/
def State.withRings (s : State) (a b : Ring) : State := { s with rbIn := a, rbOut := b }

@[simp] theorem State.withRings_cfg (s : State) (a b : Ring) : (s.withRings a b).cfg = s.cfg := rfl
@[simp] theorem State.withRings_cal (s : State) (a b : Ring) : (s.withRings a b).cal = s.cal := rfl

/-- Two states with sound buffers that differ at most in idle cells. -/
structure State.Twin (s s' : State) : Prop where
  ok : s.BuffersOk
  ok' : s'.BuffersOk
  same : s.SameButIdleCells s'

/-- The second of two twins is the first with other rings. -/
theorem State.Twin.exists_rings {s s' : State} (h : s.Twin s') : ∃ a b, s' = s.withRings a b :=
  ⟨_, _, h.same.1⟩

theorem State.Twin.cfg_eq {s s' : State} (h : s.Twin s') : s'.cfg = s.cfg := by
  rw [h.same.1]

theorem State.Twin.usedIn_eq {s s' : State} (h : s.Twin s') : s'.usedIn = s.usedIn := by
  rw [State.usedIn, h.cfg_eq]; exact h.same.2.1.used_eq

/-- `f` neither reads nor writes the rings, and keeps the configuration. -/
def RingBlind (f : State → State) : Prop :=
  (∀ s, (f s).cfg = s.cfg) ∧ ∀ s a b, f (s.withRings a b) = (f s).withRings a b

/-- Such an operation leaves twins; for most the hypothesis holds by unfolding. -/
theorem State.Twin.blind {s s' : State} (h : s.Twin s') (f : State → State)
    (hf : RingBlind f := by exact ⟨fun _ => rfl, fun _ _ _ => rfl⟩) : (f s).Twin (f s') := by
  obtain ⟨hcfg, hf⟩ := hf
  obtain ⟨a, b, rfl⟩ := h.exists_rings
  obtain ⟨ok, ok', -, hin, hout⟩ := h
  have hs : f s = (f s).withRings s.rbIn s.rbOut := hf s s.rbIn s.rbOut
  have hc := hcfg s
  rw [hf, hs]
  generalize f s = u at hc ⊢
  cases u
  simp only at hc
  subst hc
  exact ⟨ok, ok', rfl, hin, hout⟩

theorem State.Twin.setIn {s s' : State} {q q' : Ring} (h : s.Twin s')
    (ok : (s.setIn q).BuffersOk) (ok' : (s'.setIn q').BuffersOk) (hq : q.SameLive q' s.cfg.capIn) :
    (s.setIn q).Twin (s'.setIn q') := by
  obtain ⟨a, b, rfl⟩ := h.exists_rings
  exact ⟨ok, ok', rfl, hq, h.same.2.2⟩

theorem State.Twin.setOut {s s' : State} {q q' : Ring} (h : s.Twin s')
    (ok : (s.setOut q).BuffersOk) (ok' : (s'.setOut q').BuffersOk) (hq : q.SameLive q' s.cfg.capOut) :
    (s.setOut q).Twin (s'.setOut q') := by
  obtain ⟨a, b, rfl⟩ := h.exists_rings
  exact ⟨ok, ok', rfl, h.same.2.1, hq⟩

/-! ### The shared operations -/

/-- The gates are computed from the free counts, and those from the indices (R155). -/
theorem State.Twin.gateEval {s s' : State} (h : s.Twin s') : s.gateEval.Twin s'.gateEval := by
  obtain ⟨a, b, rfl⟩ := h.exists_rings
  obtain ⟨ok, ok', -, hin, hout⟩ := h
  refine ⟨ok, ok', ?_, hin, hout⟩
  have hfo : (s.withRings a b).freeOut = s.freeOut := hout.free_eq
  have hfi : (s.withRings a b).freeIn = s.freeIn := hin.free_eq
  rw [State.gateEval_eq, State.gateEval_eq, hfo, hfi]
  rfl

theorem State.Twin.enqueueIn {s s' : State} (h : s.Twin s') (b : Byte) :
    (s.rbIn.enqueue s.cfg.capIn b = none ∧ s'.rbIn.enqueue s'.cfg.capIn b = none) ∨
      ∃ q q', s.rbIn.enqueue s.cfg.capIn b = some q ∧ s'.rbIn.enqueue s'.cfg.capIn b = some q' ∧
        (s.setIn q).Twin (s'.setIn q') := by
  rw [h.cfg_eq]
  have ⟨ok, ok', _, hin, _⟩ := h
  rcases hin.enqueue s.cfg.capIn_mem ok.1.1 ok'.1.1 b with hn | ⟨q, q', hq, hq', hl⟩
  · exact .inl hn
  · have okq := ok.1.enqueue s.cfg.capIn_mem s.cfg.capIn_le_space hq
    have okq' := ok'.1.enqueue s'.cfg.capIn_mem s'.cfg.capIn_le_space (h.cfg_eq ▸ hq')
    exact .inr ⟨q, q', hq, hq', h.setIn ⟨okq, ok.2⟩ ⟨okq', ok'.2⟩ hl⟩

theorem State.Twin.enqueueOut {s s' : State} (h : s.Twin s') (b : Byte) :
    (s.rbOut.enqueue s.cfg.capOut b = none ∧ s'.rbOut.enqueue s'.cfg.capOut b = none) ∨
      ∃ q q', s.rbOut.enqueue s.cfg.capOut b = some q ∧ s'.rbOut.enqueue s'.cfg.capOut b = some q' ∧
        (s.setOut q).Twin (s'.setOut q') := by
  rw [h.cfg_eq]
  have ⟨ok, ok', _, _, hout⟩ := h
  rcases hout.enqueue s.cfg.capOut_mem ok.2.1 ok'.2.1 b with hn | ⟨q, q', hq, hq', hl⟩
  · exact .inl hn
  · have okq := ok.2.enqueue s.cfg.capOut_mem le_rfl hq
    have okq' := ok'.2.enqueue s'.cfg.capOut_mem le_rfl (h.cfg_eq ▸ hq')
    exact .inr ⟨q, q', hq, hq', h.setOut ⟨ok.1, okq⟩ ⟨ok'.1, okq'⟩ hl⟩

theorem State.Twin.dequeueOut {s s' : State} (h : s.Twin s') :
    (s.rbOut.dequeue s.cfg.capOut = none ∧ s'.rbOut.dequeue s'.cfg.capOut = none) ∨
      ∃ b q q', s.rbOut.dequeue s.cfg.capOut = some (b, q) ∧ s'.rbOut.dequeue s'.cfg.capOut = some (b, q') ∧
        (s.setOut q).Twin (s'.setOut q') := by
  rw [h.cfg_eq]
  have ⟨ok, ok', _, _, hout⟩ := h
  rcases hout.dequeue s.cfg.capOut_mem with hn | ⟨b, q, q', hq, hq', hl⟩
  · exact .inl hn
  · have okq := ok.2.dequeue s.cfg.capOut_mem hq
    have okq' := ok'.2.dequeue s'.cfg.capOut_mem (h.cfg_eq ▸ hq')
    exact .inr ⟨b, q, q', hq, hq', h.setOut ⟨ok.1, okq⟩ ⟨ok'.1, okq'⟩ hl⟩

theorem State.Twin.raiseFault {s s' : State} (h : s.Twin s') (b : FaultBit) :
    (s.raiseFault b).Twin (s'.raiseFault b) :=
  h.blind (State.raiseFault · b) ⟨fun _ => by simp, fun _ _ _ => by cases b <;> rfl⟩

theorem State.Twin.pushOut {s s' : State} (h : s.Twin s') (b : Byte) : (s.pushOut b).Twin (s'.pushOut b) := by
  unfold State.pushOut
  rcases h.enqueueOut b with ⟨e, e'⟩ | ⟨q, q', e, e', hq⟩ <;> rw [e, e']
  · exact h.raiseFault _
  · exact hq

theorem State.Twin.foldl_pushOut {s s' : State} (h : s.Twin s') (data : List Byte) :
    (data.foldl State.pushOut s).Twin (data.foldl State.pushOut s') := by
  induction data generalizing s s' with
  | nil => exact h
  | cons b rest ih => exact ih (h.pushOut b)

theorem State.Twin.pushIn {s s' : State} (h : s.Twin s') (b : Byte) : (s.pushIn b).Twin (s'.pushIn b) := by
  unfold State.pushIn
  rcases h.enqueueIn b with ⟨e, e'⟩ | ⟨q, q', e, e', hq⟩ <;> rw [e, e']
  · exact h
  · exact hq

theorem State.Twin.hwReceive {s s' : State} (h : s.Twin s') (flags rxdata : Byte) :
    (s.hwReceive flags rxdata).Twin (s'.hwReceive flags rxdata) := by
  unfold State.hwReceive
  split
  · rcases h.enqueueIn rxdata with ⟨e, e'⟩ | ⟨q, q', e, e', hq⟩ <;> rw [e, e']
    · exact h.raiseFault _
    · exact hq
  · exact h

/-- The peripheral gets the same byte. -/
theorem State.Twin.hwTransmit {s s' : State} (h : s.Twin s') (flags : Byte) :
    (s.hwTransmit flags).1 = (s'.hwTransmit flags).1 ∧ (s.hwTransmit flags).2.Twin (s'.hwTransmit flags).2 := by
  have hcts : s'.cts = s.cts := by rw [h.same.1]
  unfold State.hwTransmit
  rw [hcts]
  split
  · rcases h.dequeueOut with ⟨e, e'⟩ | ⟨b, q, q', e, e', hq⟩ <;> rw [e, e']
    · exact ⟨rfl, h⟩
    · exact ⟨rfl, hq.blind (State.emit · _)⟩
  · exact ⟨rfl, h⟩

theorem State.Twin.txStart {s s' : State} (h : s.Twin s') : s.txStart.Twin s'.txStart := by
  have htx : s'.tx = s.tx := by rw [h.same.1]
  have hocr : s'.ocr = s.ocr := by rw [h.same.1]
  have hperm : s'.txPermitted = s.txPermitted := by rw [h.same.1]; rfl
  unfold State.txStart
  rw [htx, hocr, hperm]
  split
  · rcases h.dequeueOut with ⟨e, e'⟩ | ⟨b, q, q', e, e', hq⟩ <;> rw [e, e']
    · exact h
    · exact hq.blind (State.setTx · _)
  · exact h

theorem State.drainIn_rbIn (s : State) :
    s.drainIn.rbIn = (s.rbIn.makeContiguous s.cfg.capIn s.reportLen).skip s.cfg.capIn s.reportLen := rfl

theorem State.drainIn_eq (s : State) :
    s.drainIn = ((s.setIn s.drainIn.rbIn).setZlp (s.reportLen == s.cfg.pktIn)).gateEval := rfl

/-- A data report drains the same bytes and sets `zlp_pending` alike (R164, R166). -/
theorem State.Twin.drainIn {s s' : State} (h : s.Twin s') : s.drainIn.Twin s'.drainIn := by
  have hlen : s'.reportLen = s.reportLen := by rw [State.reportLen, State.reportLen, h.usedIn_eq, h.cfg_eq]
  have hlive : s.drainIn.rbIn.SameLive s'.drainIn.rbIn s.cfg.capIn := by
    rw [State.drainIn_rbIn, State.drainIn_rbIn, hlen, h.cfg_eq]
    exact h.same.2.1.drain s.cfg.capIn_mem h.ok.1.1 h.ok'.1.1 s.reportLen_le.1
  have hin : (s.setIn s.drainIn.rbIn).Twin (s'.setIn s'.drainIn.rbIn) :=
    h.setIn (State.drainIn_buffersOk h.ok) (State.drainIn_buffersOk h.ok') hlive
  rw [State.drainIn_eq, State.drainIn_eq s', hlen, h.cfg_eq]
  exact (hin.blind (State.setZlp · (s.reportLen == s.cfg.pktIn))).gateEval

/-- The report carries the oldest bytes waiting (R164, R168). -/
theorem State.reportBytes_eq {s : State} (h : s.BuffersOk) : s.reportBytes = s.waitingIn.take s.reportLen :=
  Ring.linear_makeContiguous s.cfg.capIn_mem h.1.1 s.reportLen_le.1

theorem State.Twin.reportBytes_eq {s s' : State} (h : s.Twin s') : s'.reportBytes = s.reportBytes := by
  rw [State.reportBytes_eq h.ok, State.reportBytes_eq h.ok', State.reportLen, State.reportLen, State.waitingIn,
    State.waitingIn, h.usedIn_eq, h.cfg_eq, h.same.2.1.2.2]

theorem State.Twin.setRx {s s' : State} (h : s.Twin s') (r : Rx) : (s.setRx r).Twin (s'.setRx r) :=
  h.blind (State.setRx · r)

theorem State.Twin.rx_eq {s s' : State} (h : s.Twin s') : s'.rx = s.rx := by rw [h.same.1]

theorem State.Twin.rxSample {s s' : State} (h : s.Twin s') (lvl : Bool) :
    (s.rxSample lvl).Twin (s'.rxSample lvl) := by
  have hocr : s'.ocr = s.ocr := by rw [h.same.1]
  unfold State.rxSample
  rw [h.rx_eq, hocr]
  dsimp only
  split
  · exact ((h.setRx _).pushIn _).gateEval
  · exact h.setRx _

theorem State.Twin.rxEvents {s s' : State} (h : s.Twin s') (lvl : Bool) :
    (s.rxEvents lvl).Twin (s'.rxEvents lvl) := by
  have hfirst : s'.first = s.first := by rw [h.same.1]
  unfold State.rxEvents
  rw [h.rx_eq, hfirst]
  split
  · split
    · exact h.setRx _
    · exact h
  · by_cases hc : s.rx.cnt - 1 = 0
    · simp only [State.setRx_rx, hc, if_true]
      exact (h.setRx _).rxSample lvl
    · simp only [State.setRx_rx, hc, if_false]
      exact h.setRx _

theorem State.Twin.rxTick {s s' : State} (h : s.Twin s') : s.rxTick.Twin s'.rxTick := by
  have hlvl : s'.rxLevel = s.rxLevel := by rw [h.same.1]; rfl
  unfold State.rxTick
  rw [hlvl]
  exact (h.rxEvents _).blind (State.followLine · _)

/-- Nothing waits in an emptied ring (R290). -/
theorem Ring.clear_contents (r : Ring) (cap : Nat) : r.clear.contents cap = [] :=
  List.eq_nil_of_length_eq_zero ((Ring.contents_length _ _).trans (Ring.used_of_zero _ _))

theorem State.Twin.clearAll {s s' : State} (h : s.Twin s') : s.clearAll.Twin s'.clearAll := by
  obtain ⟨a, b, rfl⟩ := h.exists_rings
  obtain ⟨⟨hi, ho⟩, ⟨hi', ho'⟩, -⟩ := h
  exact ⟨⟨hi.clear s.cfg.capIn_mem, ho.clear s.cfg.capOut_mem⟩,
    ⟨hi'.clear s.cfg.capIn_mem, ho'.clear s.cfg.capOut_mem⟩, rfl,
    ⟨rfl, rfl, (Ring.clear_contents _ _).trans (Ring.clear_contents _ _).symm⟩,
    ⟨rfl, rfl, (Ring.clear_contents _ _).trans (Ring.clear_contents _ _).symm⟩⟩

/-- The register map shows the indices and the occupancy, and no cell (R50). -/
theorem State.Twin.registers_eq {s s' : State} (h : s.Twin s') : s'.registers = s.registers := by
  obtain ⟨a, b, rfl⟩ := h.exists_rings
  obtain ⟨-, -, -, hin, hout⟩ := h
  have hui : (s.withRings a b).usedIn = s.usedIn := hin.used_eq
  have hfi : (s.withRings a b).freeIn = s.freeIn := hin.free_eq
  have huo : (s.withRings a b).usedOut = s.usedOut := hout.used_eq
  have hfo : (s.withRings a b).freeOut = s.freeOut := hout.free_eq
  obtain ⟨hri, hwi, -⟩ := hin
  obtain ⟨hro, hwo, -⟩ := hout
  unfold State.registers
  rw [hui, hfi, huo, hfo, ← hri, ← hwi, ← hro, ← hwo]
  rfl

/-! ### Operations that do not look at the rings -/

theorem ringBlind_configure : RingBlind State.configure :=
  ⟨fun s => by rw [State.configure_eq], fun s a b => by rw [State.configure_eq, State.configure_eq]; rfl⟩

theorem ringBlind_stepBase (x : Half) : RingBlind (State.stepBase · x) :=
  ⟨fun s => by simp only; rw [State.stepBase_sameButCal], fun s a b => by
    simp only [State.stepBase, apply_ite (State.withRings · a b)]; rfl⟩

theorem ringBlind_stepSplit (x : Half) : RingBlind (State.stepSplit · x) :=
  ⟨fun s => by simp only; rw [State.stepSplit_sameButCal], fun s a b => by
    simp only [State.stepSplit, State.beginSearch_eq]; rfl⟩

theorem ringBlind_stepSearch (x : Half) : RingBlind (State.stepSearch · x) :=
  ⟨fun s => by simp only; rw [State.stepSearch_sameButCal], fun s a b => by
    simp only [State.stepSearch, State.finishSearch, apply_ite (State.withRings · a b)]; rfl⟩

theorem ringBlind_stepNeigh (x : Half) : RingBlind (State.stepNeigh · x) :=
  ⟨fun s => by simp only; rw [State.stepNeigh_sameButCal], fun s a b => by
    simp only [State.stepNeigh]
    cases h : s.cal.nextCand s.cfg.k (s.cal.idx.toNat + 1) with
    | none => simp [h, State.finishPass_eq]; rfl
    | some j => simp [h]; rfl⟩

/-! ### The operations -/

/-- Two operations are answered, and leave twins. -/
def Result.Twin (r r' : Result) : Prop := ∃ t t', r = .next t ∧ r' = .next t' ∧ t.Twin t'

theorem State.Twin.replied {s s' : State} (h : s.Twin s') (st : Status) (bytes : List Byte) :
    Result.Twin (.next (s.reply st bytes)) (.next (s'.reply st bytes)) :=
  ⟨_, _, rfl, rfl, h.blind (State.reply · st bytes)⟩

/-- Every operation answers twins alike and leaves twins. -/
theorem State.Twin.exec {s s' : State} (h : s.Twin s') (i : Instr) :
    Result.Twin (Machine.exec i s) (Machine.exec i s') := by
  cases i with
  | reset =>
    have ht := h.clearAll.blind State.loadTrim
    exact (ht.blind _ ringBlind_configure).replied _ _
  | poll =>
    simp only [Machine.exec, execPoll, h.cfg_eq]
    cases s.cfg.backend with
    | software => exact h.txStart.gateEval.replied _ _
    | hardware => exact h.replied _ _
  | pollHw flags rxdata =>
    simp only [Machine.exec, execPollHw, h.cfg_eq]
    cases s.cfg.backend with
    | software => exact h.replied _ _
    | hardware =>
      obtain ⟨hsent, ht⟩ := (h.hwReceive flags rxdata).hwTransmit flags
      simp only [← hsent]
      exact ht.gateEval.replied _ _
  | busReset =>
    have hcal : s'.cal = s.cal := by rw [h.same.1]
    have htrim : s'.osctrim = s.osctrim := by rw [h.same.1]
    have ht := (h.blind (State.setLc · s.cfg.defaultLc)).blind _ ringBlind_configure
    simp only [Machine.exec, execBusReset, h.cfg_eq, hcal, htrim]
    split
    · exact ((ht.blind (State.setCal · _)).blind (State.emit · .measRequest)).replied _ _
    · have htrim' := ht.blind (State.applyTrim · s.cal.saved)
      exact ((htrim'.blind (State.setCal · _)).blind (State.emit · .measRequest)).replied _ _
  | meas x =>
    have hcal : s'.cal = s.cal := by rw [h.same.1]
    simp only [Machine.exec, execMeas, hcal]
    cases s.cal.phase with
    | idle => exact h.replied _ _
    | base => exact (h.blind _ (ringBlind_stepBase x)).replied _ _
    | splitp => exact (h.blind _ (ringBlind_stepSplit x)).replied _ _
    | search => exact (h.blind _ (ringBlind_stepSearch x)).replied _ _
    | neigh => exact (h.blind _ (ringBlind_stepNeigh x)).replied _ _
  | usbOut data =>
    have hacc : s'.usbAccept = s.usbAccept := by rw [h.same.1]
    simp only [Machine.exec, execUsbOut, h.cfg_eq, hacc]
    split
    · exact h.replied _ _
    · split
      · exact (h.foldl_pushOut data).gateEval.replied _ _
      · exact h.replied _ _
  | usbInReady =>
    have hzlp : s'.zlpPending = s.zlpPending := by rw [h.same.1]
    simp only [Machine.exec, execUsbInReady, h.usedIn_eq, h.reportBytes_eq, hzlp]
    split
    · exact h.drainIn.replied _ _
    · split
      · exact (h.blind (State.setZlp · false)).replied _ _
      · exact h.replied _ _
  | setLineCoding l =>
    have ht := h.blind (State.setLc · l)
    exact (ht.blind _ ringBlind_configure).replied _ _
  | getLineCoding =>
    have hlc : s'.lc = s.lc := by rw [h.same.1]
    simp only [Machine.exec, execGetLineCoding, hlc]
    exact h.replied _ _
  | setControlLineState v =>
    exact (h.blind (State.setDtr · (lineStateReady v))).replied _ _
  | pins p =>
    exact (h.blind (State.setPins · (pinsRxd p) (pinsCts p))).replied _ _
  | tick =>
    simp only [Machine.exec, execTick, h.cfg_eq]
    cases s.cfg.backend with
    | software => exact (h.blind State.txTick).rxTick.replied _ _
    | hardware => exact h.replied _ _
  | rdreg n =>
    simp only [Machine.exec, execRdreg, h.registers_eq]
    split
    · exact h.replied _ _
    · exact h.replied _ _

/-- Settles O28: the two states are twins. -/
theorem idleCellsAreNeverRead : Obligations.IdleCellsAreNeverRead := by
  intro i s s' t ok ok' same ht
  obtain ⟨u, u', hu, hu', htwin⟩ := State.Twin.exec ⟨ok, ok', same⟩ i
  rw [ht] at hu
  cases hu
  exact ⟨u', hu', htwin.same⟩

end Sys2Proof.Machine
end

section
/-! PROOFS. A ring is a bounded queue (O19), and the bytes of each ring leave it in the order in which they came,
operation by operation (O24, O25) and over a run of the hardware backend (O26, O27). -/

namespace Sys2Proof.Machine

/-! ### The queue -/

/-- Settles O19: an enqueue is rejected at `CAP - 1` bytes and otherwise appends, a dequeue takes the head. -/
theorem ringRefinesQueue : Obligations.RingRefinesQueue := by
  intro cap r b hc hm
  have hlt := Ring.used_lt hc r
  constructor
  · cases h : r.enqueue cap b with
    | none =>
      have hfree : cap - 1 - r.used cap = 0 := Ring.enqueue_eq_none.1 h
      simp only [Ring.contents_length]
      omega
    | some r' =>
      have hfree : cap - 1 - r.used cap ≠ 0 := (Ring.enqueue_eq_some.1 h).1
      simp only [Ring.contents_length]
      exact ⟨by omega, Ring.enqueue_contents hc hm h⟩
  · cases h : r.dequeue cap with
    | none => exact List.eq_nil_of_length_eq_zero ((Ring.contents_length r cap).trans (Ring.dequeue_eq_none.1 h))
    | some p => exact Ring.dequeue_contents hc h

/-! ### What the shared operations do to the bytes waiting -/

theorem State.waitingIn_of_eq {s t : State} (hcfg : t.cfg = s.cfg) (hin : t.rbIn = s.rbIn) :
    t.waitingIn = s.waitingIn := by
  rw [State.waitingIn, hcfg, hin, State.waitingIn]

theorem State.waitingOut_of_eq {s t : State} (hcfg : t.cfg = s.cfg) (hout : t.rbOut = s.rbOut) :
    t.waitingOut = s.waitingOut := by
  rw [State.waitingOut, hcfg, hout, State.waitingOut]

/-- A completed byte joins at the end, or is dropped (R209, R162). -/
theorem State.pushIn_waitingIn {s : State} (b : Byte) (h : s.BuffersOk) :
    (s.pushIn b).waitingIn = s.waitingIn ++ [b] ∨ (s.pushIn b).waitingIn = s.waitingIn := by
  rcases s.pushIn_cases b with ⟨-, r, hq, e⟩ | ⟨-, e⟩ <;> rw [e]
  · exact .inl (Ring.enqueue_contents s.cfg.capIn_mem h.1.1 hq)
  · exact .inr rfl

/-- The receiver adds at most the byte its shift register has completed (R209). -/
theorem State.rxTick_waitingIn {s : State} (h : s.BuffersOk) :
    ∃ added, s.rxTick.waitingIn = s.waitingIn ++ added ∧ (added = [] ∨ added = [s.rxTick.rx.shift]) := by
  unfold State.rxTick
  generalize s.rxLevel = lvl
  rcases s.rxEvents_cases lvl with ⟨-, -, e⟩ | ⟨-, -, -, e⟩ | ⟨-, -, e⟩ | ⟨-, -, -, e⟩ | ⟨-, -, e⟩ <;> rw [e]
  · exact ⟨[], (List.append_nil _).symm, .inl rfl⟩
  · exact ⟨[], (List.append_nil _).symm, .inl rfl⟩
  · exact ⟨[], (List.append_nil _).symm, .inl rfl⟩
  · exact ⟨[], (List.append_nil _).symm, .inl rfl⟩
  · rcases State.pushIn_waitingIn (s := s.setRx { s.rx with shift := shiftIn lvl s.rx.shift, left := 0, cnt := 0 })
      (shiftIn lvl s.rx.shift) h with hw | hw
    · exact ⟨_, hw, .inr (by rw [State.pushIn_frame]; rfl)⟩
    · exact ⟨[], hw.trans (List.append_nil _).symm, .inl rfl⟩

theorem goodBytes_pollHw (flags rxdata : Byte) :
    goodBytes [.pollHw flags rxdata] = if flagRxValid flags && !flagRxErr flags then [rxdata] else [] :=
  List.append_nil _

/-- The hardware receive step adds the good byte, or loses it with `ovf_in` set (R252). -/
theorem State.hwReceive_waitingIn {s : State} (flags rxdata : Byte) (h : s.BuffersOk) :
    (s.hwReceive flags rxdata).waitingIn = s.waitingIn ++ goodBytes [.pollHw flags rxdata] ∨
      ((s.hwReceive flags rxdata).waitingIn = s.waitingIn ∧ (s.hwReceive flags rxdata).ovfIn = true) := by
  rcases s.hwReceive_cases flags rxdata with ⟨hv, he, -, r, hq, e⟩ | ⟨-, -, -, e⟩ | ⟨hbad, e⟩ <;> rw [e]
  · rw [goodBytes_pollHw, hv, he]
    exact .inl (Ring.enqueue_contents s.cfg.capIn_mem h.1.1 hq)
  · exact .inr ⟨rfl, rfl⟩
  · have hgood : goodBytes [.pollHw flags rxdata] = [] := by
      rw [goodBytes_pollHw]
      rcases hbad with hv | he <;> simp [*]
    rw [hgood, List.append_nil]
    exact .inl rfl

/-- A data report carries the oldest bytes away (R164). -/
theorem State.drainIn_waitingIn {s : State} (h : s.BuffersOk) :
    s.reportBytes ++ s.drainIn.waitingIn = s.waitingIn := by
  have hn := s.reportLen_le.1
  have hrest : s.drainIn.waitingIn = s.waitingIn.drop s.reportLen :=
    (Ring.contents_skip (r := s.rbIn.makeContiguous s.cfg.capIn s.reportLen) s.cfg.capIn_mem hn).trans
      (congrArg _ (Ring.contents_makeContiguous s.cfg.capIn_mem h.1.1 hn))
  rw [State.reportBytes_eq h, hrest, List.take_append_drop]

/-- A packet that fits is stored whole, in its order (R160). -/
theorem State.foldl_pushOut_waitingOut (data : List Byte) {s : State} (h : s.BuffersOk)
    (hfit : data.length ≤ s.freeOut) : (data.foldl State.pushOut s).waitingOut = s.waitingOut ++ data := by
  induction data generalizing s with
  | nil => exact (List.append_nil _).symm
  | cons b rest ih =>
    rw [List.length_cons] at hfit
    rcases s.pushOut_cases b with ⟨-, r, hq, e⟩ | ⟨hz, -⟩
    · have hfree : (s.setOut r).freeOut = s.freeOut - 1 := Ring.enqueue_free s.cfg.capOut_mem hq
      have hok : (s.setOut r).BuffersOk := e ▸ State.pushOut_buffersOk b h
      have hb : (s.setOut r).waitingOut = s.waitingOut ++ [b] := Ring.enqueue_contents s.cfg.capOut_mem h.2.1 hq
      rw [List.foldl_cons, e, ih hok (by omega), hb, List.append_assoc, List.singleton_append]
    · omega

/-- An open gate means room for a whole packet (R157). -/
theorem State.GatesOk.pktOut_le_freeOut {s : State} (h : s.GatesOk) (ha : s.usbAccept = true) :
    s.cfg.pktOut ≤ s.freeOut := by
  by_contra hlt
  simp [h.1 (by omega)] at ha

/-- `tx_start` takes the oldest byte into the transmit frame, or nothing (R193). -/
theorem State.txStart_waitingOut (s : State) :
    s.txStart.waitingOut = s.waitingOut ∨
      ∃ b, s.waitingOut = b :: s.txStart.waitingOut ∧ s.txStart.tx.frame = frame b := by
  rcases s.txStart_cases with ⟨-, -, -, b, r, hd, e⟩ | ⟨-, e⟩ <;> rw [e]
  · exact .inr ⟨b, Ring.dequeue_contents s.cfg.capOut_mem hd, rfl⟩
  · exact .inl rfl

/-- The hardware transmit step answers the bytes it takes (R253). -/
theorem State.hwTransmit_waitingOut (s : State) (flags : Byte) :
    s.waitingOut = (s.hwTransmit flags).1 ++ (s.hwTransmit flags).2.waitingOut := by
  rcases s.hwTransmit_cases flags with ⟨-, -, -, b, r, hd, e⟩ | ⟨-, e⟩ <;> rw [e]
  · exact Ring.dequeue_contents s.cfg.capOut_mem hd
  · rfl

/-! ### The streams, operation by operation -/

theorem goodBytes_cons (i : Instr) (is : List Instr) : goodBytes (i :: is) = goodBytes [i] ++ goodBytes is := by
  simp [goodBytes]

theorem hostBytes_cons {i : Instr} {s t : State} (h : exec i s = .next t) (is : List Instr) :
    hostBytes (i :: is) s = hostBytes [i] s ++ hostBytes is t := by
  simp [hostBytes, h]

theorem reportedBytes_cons {i : Instr} {s t : State} (h : exec i s = .next t) (is : List Instr) :
    reportedBytes (i :: is) s = reportedBytes [i] s ++ reportedBytes is t := by
  simp [reportedBytes, h]

theorem peripheralBytes_cons {i : Instr} {s t : State} (h : exec i s = .next t) (is : List Instr) :
    peripheralBytes (i :: is) s = peripheralBytes [i] s ++ peripheralBytes is t := by
  simp [peripheralBytes, h]

/-- Only POLL_HW carries a received byte, and at most its own (R252). -/
theorem goodBytes_single (i : Instr) :
    goodBytes [i] = [] ∨ ∃ flags rxdata, i = .pollHw flags rxdata ∧ goodBytes [i] = [rxdata] := by
  cases i with
  | pollHw flags rxdata =>
    rw [goodBytes_pollHw]
    split
    · exact .inr ⟨flags, rxdata, rfl, rfl⟩
    · exact .inl rfl
  | _ => exact .inl rfl

/-- Only a USB_OUT answered OK hands bytes over (R160). -/
theorem hostBytes_single {i : Instr} {s t : State} (h : exec i s = .next t) :
    hostBytes [i] s = [] ∨ (i = .usbOut (hostBytes [i] s) ∧ t.answer = some ⟨.ok, []⟩) := by
  cases exec_effect h with
  | usbOut data hl ha => exact .inr ⟨by simp [hostBytes, h], rfl⟩
  | _ => exact .inl (by simp [hostBytes, h])

theorem hostBytes_usbOut_of_ok {data bytes : List Byte} {s t : State} (h : exec (.usbOut data) s = .next t)
    (ha : t.answer = some ⟨.ok, bytes⟩) : hostBytes [.usbOut data] s = data := by
  simp [hostBytes, h, ha]

/-- Only USB_IN_READY reports bytes (R164). -/
theorem reportedBytes_of_ne {i : Instr} {s : State} (hi : i ≠ .usbInReady) : reportedBytes [i] s = [] := by
  obtain ⟨t, h, -⟩ := exec_total i s
  simp only [reportedBytes, h]
  cases i with
  | usbInReady => exact absurd rfl hi
  | _ => rfl

theorem reportedBytes_usbInReady {s t : State} {a : Answer} (h : exec .usbInReady s = .next t)
    (ha : t.answer = some a) : reportedBytes [.usbInReady] s = a.bytes := by
  simp [reportedBytes, h, ha]

theorem peripheralBytes_pollHw {flags rxdata : Byte} {s t : State} {a : Answer}
    (h : exec (.pollHw flags rxdata) s = .next t) (ha : t.answer = some a) :
    peripheralBytes [.pollHw flags rxdata] s = a.bytes := by
  simp [peripheralBytes, h, ha]

/-- Only POLL_HW hands bytes to the peripheral, as its answer (R251). -/
theorem peripheralBytes_single {i : Instr} {s t : State} (h : exec i s = .next t) :
    peripheralBytes [i] s = [] ∨
      ∃ flags rxdata, i = .pollHw flags rxdata ∧ t.answer = some ⟨.ok, peripheralBytes [i] s⟩ := by
  cases exec_effect h with
  | pollHw flags rxdata hb => exact .inr ⟨flags, rxdata, rfl, by rw [peripheralBytes_pollHw h rfl]; rfl⟩
  | _ => exact .inl (by simp [peripheralBytes, h])

/-- What an operation but RESET does to the bytes waiting in IN: it takes the bytes it reports and adds its good byte;
the good byte is lost when `ovf_in` says so or the backend has no POLL_HW, and the software backend's TICK adds at
most the byte the receiver has completed (R164, R209, R252). -/
theorem exec_waitingIn {i : Instr} {s t : State} (h : exec i s = .next t) (hs : s.BuffersOk) (hr : i ≠ .reset) :
    ∃ added, s.waitingIn ++ added = reportedBytes [i] s ++ t.waitingIn ∧
      (added = goodBytes [i] ∨
        (added = [] ∧ (t.ovfIn = true ∨ s.cfg.backend = .software)) ∨
        (i = .tick ∧ s.cfg.backend = .software ∧ added = [t.rx.shift])) := by
  have hf := exec_frame h
  cases exec_effect h with
  | reset => exact absurd rfl hr
  | pollHw flags rxdata hb =>
    rw [reportedBytes_of_ne (by simp), List.nil_append]
    have hkeep : (((s.hwReceive flags rxdata).hwTransmit flags).2.gateEval.reply .ok
        ((s.hwReceive flags rxdata).hwTransmit flags).1).waitingIn = (s.hwReceive flags rxdata).waitingIn :=
      State.waitingIn_of_eq (by rw [State.hwTransmit_frame]; rfl) (by rw [State.hwTransmit_frame]; rfl)
    rw [hkeep]
    rcases State.hwReceive_waitingIn flags rxdata hs with hw | ⟨hw, hovf⟩
    · exact ⟨_, hw.symm, .inl rfl⟩
    · refine ⟨[], by rw [hw, List.append_nil], .inr (.inl ⟨rfl, .inl ?_⟩)⟩
      rw [State.hwTransmit_frame]
      exact hovf
  | pollHwUnavailable flags rxdata hb =>
    rw [reportedBytes_of_ne (by simp)]
    exact ⟨[], List.append_nil _, .inr (.inl ⟨rfl, .inr hb⟩)⟩
  | report hu =>
    refine ⟨[], ?_, .inl rfl⟩
    rw [reportedBytes_usbInReady h rfl, List.append_nil]
    exact (State.drainIn_waitingIn hs).symm
  | emptyReport hu hz | nothingToReport hu hz =>
    rw [reportedBytes_usbInReady h rfl]
    exact ⟨[], List.append_nil _, .inl rfl⟩
  | tick hb =>
    rw [reportedBytes_of_ne (by simp)]
    obtain ⟨added, hw, hadd⟩ := State.rxTick_waitingIn (s := s.txTick) hs
    rcases hadd with rfl | rfl
    · exact ⟨[], hw.symm, .inl rfl⟩
    · exact ⟨_, hw.symm, .inr (.inr ⟨rfl, hb, rfl⟩)⟩
  | _ =>
    rw [reportedBytes_of_ne (by simp), hf]
    exact ⟨[], List.append_nil _, .inl rfl⟩

/-- What an operation but RESET does to the bytes waiting in OUT: it adds the packet it accepts, and takes the bytes
it hands to the peripheral or, under the software backend, the byte POLL loads into the transmit frame (R160, R193,
R253). -/
theorem exec_waitingOut {i : Instr} {s t : State} (h : exec i s = .next t) (hs : s.BuffersOk) (hg : s.GatesOk)
    (hr : i ≠ .reset) :
    ∃ removed, s.waitingOut ++ hostBytes [i] s = removed ++ t.waitingOut ∧
      (removed = peripheralBytes [i] s ∨
        (i = .poll ∧ s.cfg.backend = .software ∧ ∃ b, removed = [b] ∧ t.tx.frame = frame b)) := by
  have hf := exec_frame h
  have hhost := hostBytes_single h
  have hsent := peripheralBytes_single h
  cases exec_effect h with
  | reset => exact absurd rfl hr
  | poll hb =>
    rw [hhost.resolve_right (by simp), hsent.resolve_right (by simp), List.append_nil]
    rcases s.txStart_waitingOut with hw | ⟨b, hw, hframe⟩
    · exact ⟨[], hw.symm, .inl rfl⟩
    · exact ⟨[b], hw, .inr ⟨rfl, hb, b, rfl, hframe⟩⟩
  | pollHw flags rxdata hb =>
    have hkeep : (s.hwReceive flags rxdata).waitingOut = s.waitingOut :=
      State.waitingOut_of_eq (by rw [State.hwReceive_frame]) (by rw [State.hwReceive_frame])
    refine ⟨_, ?_, .inl rfl⟩
    rw [hhost.resolve_right (by simp), List.append_nil, peripheralBytes_pollHw h rfl, ← hkeep]
    exact (s.hwReceive flags rxdata).hwTransmit_waitingOut flags
  | usbOut data hl ha =>
    rw [hostBytes_usbOut_of_ok h rfl, hsent.resolve_right (by simp)]
    exact ⟨[], (State.foldl_pushOut_waitingOut data hs (hl.trans (hg.pktOut_le_freeOut ha))).symm, .inl rfl⟩
  | _ =>
    rw [hhost.resolve_right (by simp), hsent.resolve_right (by simp), hf]
    exact ⟨[], List.append_nil _, .inl rfl⟩

/-- Settles O24: what is removed is what is reported. -/
theorem inboundIsFifo : Obligations.InboundIsFifo := by
  intro i s t h hs hr
  obtain ⟨added, hfifo, hadd⟩ := exec_waitingIn h hs hr
  refine ⟨added, reportedBytes [i] s, hfifo, ?_, reportedBytes_of_ne, ?_⟩
  · rcases hadd with rfl | ⟨rfl, -⟩ | ⟨hi, -, rfl⟩
    · exact (goodBytes_single i).imp_right .inr
    · exact .inl rfl
    · exact .inr (.inl ⟨hi, rfl⟩)
  · rintro rfl
    obtain ⟨a, ha⟩ : ∃ a, t.answer = some a := by cases exec_effect h <;> exact ⟨_, rfl⟩
    exact ⟨a.status, by rw [reportedBytes_usbInReady h ha, ha]⟩

/-- Settles O25: what is added is the accepted packet, which fits because the gate is open. -/
theorem outboundIsFifo : Obligations.OutboundIsFifo := by
  intro i s t h hs hg hr
  obtain ⟨removed, hfifo, hrem⟩ := exec_waitingOut h hs hg hr
  refine ⟨hostBytes [i] s, removed, hfifo, ?_, (hostBytes_single h).resolve_left, ?_⟩
  · rintro data bytes rfl ha
    exact hostBytes_usbOut_of_ok h ha
  · rcases hrem with rfl | ⟨hi, -, hb⟩
    · exact (peripheralBytes_single h).imp_right .inr
    · exact .inr (.inl ⟨hi, hb⟩)

/-! ### The streams over a run -/

/-- A run's first operation and the rest. -/
theorem runOps_cons {i : Instr} {is : List Instr} {s t : State} (h : runOps (i :: is) s = some t) :
    ∃ u, exec i s = .next u ∧ runOps is u = some t := by
  obtain ⟨u, hu, -⟩ := exec_total i s
  exact ⟨u, hu, by simpa [runOps, hu] using h⟩

/-- An inbound overflow recorded before a run without RESET is still recorded at its end (R263). -/
theorem runOps_ovfIn_sticky {is : List Instr} {s t : State} (h : runOps is s = some t) (hr : .reset ∉ is)
    (hs : s.ovfIn = true) : t.ovfIn = true := by
  induction is generalizing s with
  | nil => exact Option.some.inj h ▸ hs
  | cons i is ih =>
    obtain ⟨u, hu, hrun⟩ := runOps_cons h
    obtain ⟨hi, hrest⟩ := List.ne_and_not_mem_of_not_mem_cons hr
    obtain ⟨-, hsticky, -⟩ := faultBitsAreSticky i s u hu
    exact ih hrun hrest ((hsticky hi.symm).2 hs)

/-- Settles O26: the law of one operation, chained along the run. -/
theorem outboundStreamIsPreserved : Obligations.OutboundStreamIsPreserved := by
  intro is
  induction is with
  | nil =>
    intro s t _ _ _ _ h
    cases h
    exact List.append_nil _
  | cons i is ih =>
    intro s t hs hg hb hr h
    obtain ⟨u, hu, hrun⟩ := runOps_cons h
    obtain ⟨hi, hrest⟩ := List.ne_and_not_mem_of_not_mem_cons hr
    have hstep : s.waitingOut ++ hostBytes [i] s = peripheralBytes [i] s ++ u.waitingOut := by
      obtain ⟨removed, hfifo, rfl | ⟨-, hb', -⟩⟩ := exec_waitingOut hu hs hg hi.symm
      · exact hfifo
      · simp [hb] at hb'
    have hih := ih u t (exec_keeps_buffersOk hu hs) (exec_keeps_gatesOk hu hg) (exec_cfg hu ▸ hb) hrest hrun
    calc s.waitingOut ++ hostBytes (i :: is) s
        = (s.waitingOut ++ hostBytes [i] s) ++ hostBytes is u := by rw [hostBytes_cons hu, List.append_assoc]
      _ = peripheralBytes [i] s ++ (u.waitingOut ++ hostBytes is u) := by rw [hstep, List.append_assoc]
      _ = peripheralBytes (i :: is) s ++ t.waitingOut := by rw [hih, peripheralBytes_cons hu is, List.append_assoc]

/-- Settles O27: the law of one operation, chained along the run; a byte lost on the way leaves `ovf_in` set. -/
theorem inboundStreamIsPreserved : Obligations.InboundStreamIsPreserved := by
  intro is
  induction is with
  | nil =>
    intro s t _ _ _ h
    cases h
    exact ⟨[], List.nil_sublist _, fun _ => rfl, List.append_nil _⟩
  | cons i is ih =>
    intro s t hs hb hr h
    obtain ⟨u, hu, hrun⟩ := runOps_cons h
    obtain ⟨hi, hrest⟩ := List.ne_and_not_mem_of_not_mem_cons hr
    obtain ⟨added, hstep, hadd⟩ := exec_waitingIn hu hs hi.symm
    have hadd : added = goodBytes [i] ∨ (added = [] ∧ u.ovfIn = true) := by simpa [hb] using hadd
    obtain ⟨kept, hsub, hall, hih⟩ := ih u t (exec_keeps_buffersOk hu hs) (exec_cfg hu ▸ hb) hrest hrun
    refine ⟨added ++ kept, ?_, fun hovf => ?_, ?_⟩
    · have hsub1 : added.Sublist (goodBytes [i]) := by
        rcases hadd with rfl | ⟨rfl, -⟩
        · exact List.Sublist.refl _
        · exact List.nil_sublist _
      rw [goodBytes_cons]
      exact hsub1.append hsub
    · have hgood := hadd.resolve_right fun ⟨_, hset⟩ => by simp [runOps_ovfIn_sticky hrun hrest hset] at hovf
      rw [goodBytes_cons, hall hovf, hgood]
    · calc s.waitingIn ++ (added ++ kept)
          = (s.waitingIn ++ added) ++ kept := (List.append_assoc _ _ _).symm
        _ = reportedBytes [i] s ++ (u.waitingIn ++ kept) := by rw [hstep, List.append_assoc]
        _ = reportedBytes (i :: is) s ++ t.waitingIn := by rw [hih, reportedBytes_cons hu is, List.append_assoc]

end Sys2Proof.Machine
end

section
/-! PROOFS. A step runs the decoded operation (O7). -/

namespace Sys2Proof.Machine

/-- Settles O7: the port hands over its oldest packet and keeps the others. -/
theorem stepRunsDecodedOperation : Obligations.StepRunsDecodedOperation := by
  constructor
  · intro s p rest i hport hdecode
    have htake : s.takePacket = some (p, { s with port := rest }) := by simp [State.takePacket, hport]
    simp only [step, htake, hdecode]
  · intro s hport
    have htake : s.takePacket = none := by simp [State.takePacket, hport]
    simp only [step, htake]

end Sys2Proof.Machine
end

section
/-! PROOFS. The encoding is a bijection between the well-formed operations and the byte strings that decode (O1 to
O3). -/

namespace Sys2Proof

/-- An operation has an encoding exactly when its payload fits the length byte (R90). -/
theorem Instr.wellFormed_iff (i : Instr) : i.wellFormed = true ↔ i.payload.length ≤ 255 := by
  cases i with
  | usbOut data => simp [wellFormed_usbOut, Instr.payload]
  | _ => simp [Instr.wellFormed, Instr.payload, LineCoding.bytes]

/-- Each operation is read back from its own row and payload (R99 to R101). -/
theorem Opcode.operands_payload (i : Instr) : i.opcode.operands i.payload = some i := by
  cases i with
  | meas x | setControlLineState x => simp [Instr.opcode, Instr.payload, Opcode.operands, formatP2, u16le_bytes]
  | _ => rfl

/-- What decodes is a row's opcode byte, a length byte that counts the payload, and operands of that row (R94). -/
theorem exists_operands_of_decode {p : List Byte} {i : Instr} (h : decode p = .ok i) :
    ∃ (o : Opcode) (len : Byte) (payload : List Byte),
      p = o.code :: len :: payload ∧ payload.length = len.toNat ∧ o.operands payload = some i := by
  unfold decode at h
  split at h
  case h_1 op len payload =>
    split at h
    case isTrue hl =>
      split at h
      case h_1 => cases h
      case h_2 o ho =>
        split at h
        case h_1 => cases h
        case h_2 j hj =>
          cases h
          exact ⟨o, len, payload, by rw [Opcode.code_of_ofByte ho], hl, hj⟩
    case isFalse => cases h
  case h_2 => cases h

/-- A string with a header fails to be a packet exactly when its length byte does not count the payload (R94). -/
theorem decode_eq_notAPacket {op len : Byte} {payload : List Byte} :
    decode (op :: len :: payload) = .error .notAPacket ↔ payload.length ≠ len.toNat := by
  constructor
  · intro h hl
    simp only [decode, if_pos hl] at h
    split at h
    · cases h
    · split at h <;> cases h
  · intro hl
    simp only [decode, if_neg hl]

/-- Settles O1: the table's rows by evaluation. -/
theorem tablePacketsDecode : Obligations.TablePacketsDecode := by
  unfold Obligations.TablePacketsDecode
  decide

/-- Settles O2: the encoder's length byte counts the payload, and the row reads the payload back. -/
theorem decodeOfEncode : Obligations.DecodeOfEncode := fun i h =>
  decode_packet i.opcode i.payload i (i.wellFormed_iff.1 h) (Opcode.operands_payload i)

/-- Settles O3: the row and the payload found are those of the operation, and the length byte counts the payload. -/
theorem encodeOfDecode : Obligations.EncodeOfDecode := by
  intro p i h
  obtain ⟨o, len, payload, rfl, hl, ho⟩ := exists_operands_of_decode h
  obtain ⟨rfl, rfl⟩ := Opcode.operands_eq_some ho
  refine ⟨i.wellFormed_iff.2 ?_, ?_⟩
  · have := len.isLt
    omega
  · simp [encode, hl]

end Sys2Proof
end

section
/-! PROOFS. What a step answers to a byte string that is no operation, and to an operation the configuration does not
admit (O4 to O6). -/

namespace Sys2Proof.Machine

/-- A step on a packet that names no operation (R94 to R96). -/
theorem step_of_decode_error {s : State} {p : List Byte} {rest : List (List Byte)} {e : DecodeError}
    (hport : s.port = p :: rest) (h : decode p = .error e) :
    step s = State.rejectPacket { s with port := rest } e := by
  have htake : s.takePacket = some (p, { s with port := rest }) := by simp [State.takePacket, hport]
  simp only [step, htake, h]

/-- A whole packet is answered STALL as soon as every operation it could decode to is. -/
theorem step_stalls {s : State} {op len : Byte} {payload : List Byte} {rest : List (List Byte)}
    (hport : s.port = (op :: len :: payload) :: rest) (hl : payload.length = len.toNat)
    (h : ∀ i, encode i = op :: len :: payload →
      exec i { s with port := rest } = State.stall { s with port := rest }) :
    step s = .next { s with port := rest, answer := some ⟨.stall, []⟩ } := by
  cases hd : decode (op :: len :: payload) with
  | ok i => exact (stepRunsDecodedOperation.1 s _ rest i hport hd).trans (h i (encodeOfDecode _ i hd).2)
  | error e =>
    rw [step_of_decode_error hport hd]
    cases e with
    | notAPacket => exact absurd hl (decode_eq_notAPacket.1 hd)
    | reservedOpcode | wrongLength => rfl

/-- The rows' opcodes are those R92 lists. -/
theorem code_mem_assignedOpcodes (o : Opcode) : o.code ∈ assignedOpcodes := by
  cases o <;> decide

/-- Settles O4: every operation's packet begins with an assigned opcode. -/
theorem reservedOpcodeStalls : Obligations.ReservedOpcodeStalls := by
  intro s op len payload rest hport hl hop
  refine step_stalls hport hl fun i hi => absurd ?_ hop
  obtain ⟨rfl, -, -⟩ : i.opcode.code = op ∧ _ ∧ _ := by simpa [encode] using hi
  exact code_mem_assignedOpcodes i.opcode

/-- The payload of an operation whose row fixes its length has that length (R91, R92). -/
theorem payload_length_of_fixedLengths {i : Instr} {n : Nat} (h : (i.opcode.code, n) ∈ fixedLengths) :
    i.payload.length = n := by
  cases i with
  | usbOut => simp [fixedLengths, Instr.opcode, Opcode.code] at h
  | _ => simpa [fixedLengths, Instr.opcode, Opcode.code, Instr.payload, LineCoding.bytes, eq_comm] using h

/-- A USB_OUT longer than `PKT_OUT` and the operations of the other backend are answered STALL (R96 (b), (c)). -/
theorem exec_stalls_of_unavailable {i : Instr} {s : State}
    (h : (i.opcode.code = 0x12 ∧ s.cfg.pktOut < i.payload.length) ∨
      (s.cfg.backend = .hardware ∧ (i.opcode.code = 0x01 ∨ i.opcode.code = 0x31)) ∨
      (s.cfg.backend = .software ∧ i.opcode.code = 0x02)) : exec i s = s.stall := by
  cases i with
  | usbOut data => exact if_pos (by simpa [Instr.opcode, Opcode.code, Instr.payload] using h)
  | poll =>
    have hb : s.cfg.backend = .hardware := by simpa [Instr.opcode, Opcode.code] using h
    simp only [exec, execPoll, hb]
  | tick =>
    have hb : s.cfg.backend = .hardware := by simpa [Instr.opcode, Opcode.code] using h
    simp only [exec, execTick, hb]
  | pollHw flags rxdata =>
    have hb : s.cfg.backend = .software := by simpa [Instr.opcode, Opcode.code] using h
    simp only [exec, execPollHw, hb]
  | _ => simp [Instr.opcode, Opcode.code] at h

/-- Settles O5: a packet of the wrong length encodes no operation; what the others encode is answered STALL. -/
theorem malformedPacketStalls : Obligations.MalformedPacketStalls := by
  intro s op len payload rest hport hl hbad
  refine step_stalls hport hl fun i hi => ?_
  obtain ⟨rfl, -, rfl⟩ : i.opcode.code = op ∧ _ ∧ i.payload = payload := by simpa [encode] using hi
  rcases hbad with ⟨n, hn, hne⟩ | hbad
  · exact absurd (hl.symm.trans (payload_length_of_fixedLengths hn)) hne
  · exact exec_stalls_of_unavailable (by rwa [← hl] at hbad)

/-- Settles O6: a string without a header, or whose length byte does not count the rest. -/
theorem nonPacketRefused : Obligations.NonPacketRefused := by
  intro s p rest hport hp
  have hdecode : decode p = .error .notAPacket := by
    match p with
    | [] | [_] => rfl
    | op :: len :: payload =>
      refine decode_eq_notAPacket.2 fun hl => ?_
      have hlen : (op :: len :: payload).length = 2 + len.toNat := by
        simp only [List.length_cons, hl]
        omega
      rcases hp with hshort | ⟨len', hlen', hne⟩
      · omega
      · cases hlen'
        exact hne hlen
  exact step_of_decode_error hport hdecode

end Sys2Proof.Machine
end

section
/-! PROOFS. Every operation is answered, by a packet whose payload is the one R98 gives it (O8). -/

namespace Sys2Proof.Machine

/-- The payload R98 gives an answer to `i`: none unless the status is OK, and then as many bytes as the operation
returns. -/
def Answer.Fits (a : Answer) (c : Cfg) (i : Instr) : Prop :=
  (a.status ≠ .ok → a.bytes = []) ∧
  (a.status = .ok →
    match i with
    | .usbInReady => a.bytes.length ≤ c.pktIn
    | .getLineCoding => a.bytes.length = 7
    | .rdreg _ => a.bytes.length = 1
    | .pollHw _ _ => a.bytes.length ≤ 1
    | _ => a.bytes = [])

/-- A report is at most `PKT_IN` bytes long (R163, R164). -/
theorem State.reportBytes_length_le (s : State) : s.reportBytes.length ≤ s.cfg.pktIn := by
  simpa [State.reportBytes, Ring.linear] using s.reportLen_le.2

/-- The peripheral gets at most one byte (R253). -/
theorem State.hwTransmit_length_le (s : State) (flags : Byte) : (s.hwTransmit flags).1.length ≤ 1 := by
  rcases s.hwTransmit_cases flags with ⟨-, -, -, b, r, -, e⟩ | ⟨-, e⟩ <;> simp [e]

/-- Every answer's payload fits the length byte (R97). -/
theorem Answer.Fits.length_le {a : Answer} {c : Cfg} {i : Instr} (h : a.Fits c i) : a.bytes.length ≤ 255 := by
  obtain ⟨hrefused, hok⟩ := h
  by_cases hst : a.status = .ok
  · specialize hok hst
    cases i with
    | usbInReady =>
      obtain ⟨-, -, ⟨-, hpkt⟩, -⟩ := c.valid
      exact hok.trans hpkt
    | getLineCoding | rdreg => exact hok.le.trans (by decide)
    | pollHw => exact hok.trans (by decide)
    | _ => simp [hok]
  · simp [hrefused hst]

/-- Every way an operation can end answers with the payload of R98. -/
theorem Effect.answer_fits {i : Instr} {s t : State} (h : Effect s i t) :
    ∃ a, t.answer = some a ∧ a.Fits s.cfg i := by
  cases h with
  | report => exact ⟨_, rfl, nofun, fun _ => s.reportBytes_length_le⟩
  | emptyReport => exact ⟨_, rfl, nofun, fun _ => Nat.zero_le _⟩
  | pollHw flags rxdata => exact ⟨_, rfl, nofun, fun _ => State.hwTransmit_length_le _ flags⟩
  | pollUnavailable | pollHwUnavailable | measIdle | usbOutTooLong | usbOutClosed | nothingToReport
  | tickUnavailable | rdregReserved => exact ⟨_, rfl, fun _ => rfl, nofun⟩
  | _ => exact ⟨_, rfl, fun h => absurd rfl h, fun _ => rfl⟩

/-- The answer packet: the status byte, the length byte and the payload (R97, R98). -/
theorem Answer.packet_form {a : Answer} (h : a.bytes.length ≤ 255) :
    ∃ alen : Byte, alen.toNat = a.bytes.length ∧
      ((a.status = .ok ∧ a.packet = 0x00 :: alen :: a.bytes) ∨
       (a.status = .nak ∧ a.packet = 0x01 :: alen :: a.bytes) ∨
       (a.status = .stall ∧ a.packet = 0x02 :: alen :: a.bytes)) := by
  refine ⟨BitVec.ofNat 8 a.bytes.length, by simp; omega, ?_⟩
  cases hst : a.status <;> simp [Answer.packet, Status.code, hst]

/-- Settles O8: every operation ends in one of its listed ways, and each of them answers. -/
theorem everyOperationIsAnswered : Obligations.EveryOperationIsAnswered := by
  intro i s
  obtain ⟨t, hexec, heffect⟩ := exec_total i s
  obtain ⟨a, hanswer, hfits⟩ := heffect.answer_fits
  exact ⟨t, a, hexec, hanswer, Answer.packet_form hfits.length_le, hfits⟩

end Sys2Proof.Machine
end

section
/-! PROOFS. What BUS_RESET and each MEAS of a pass do (O29 to O37). -/

namespace Sys2Proof.Machine

/-! ### MEAS, phase by phase (R125) -/

theorem exec_meas_base {s : State} (x : Half) (hp : s.cal.phase = .base) :
    exec (.meas x) s = .next ((s.stepBase x).reply .ok []) := by
  simp only [exec, execMeas, hp]; rfl

theorem exec_meas_splitp {s : State} (x : Half) (hp : s.cal.phase = .splitp) :
    exec (.meas x) s = .next ((s.stepSplit x).reply .ok []) := by
  simp only [exec, execMeas, hp]; rfl

theorem exec_meas_search {s : State} (x : Half) (hp : s.cal.phase = .search) :
    exec (.meas x) s = .next ((s.stepSearch x).reply .ok []) := by
  simp only [exec, execMeas, hp]; rfl

theorem exec_meas_neigh {s : State} (x : Half) (hp : s.cal.phase = .neigh) :
    exec (.meas x) s = .next ((s.stepNeigh x).reply .ok []) := by
  simp only [exec, execMeas, hp]; rfl

/-! ### BUS_RESET (R122, R123) -/

/-- Settles O29: the two cases of the phase, each an explicit state. -/
theorem busResetStartsPass : Obligations.BusResetStartsPass := by
  intro s
  obtain ⟨t, ht, he⟩ := exec_total .busReset s
  refine ⟨t, ht, ?_⟩
  cases he with
  | startPass hp =>
    rw [State.configure_eq]
    cases hb : s.cfg.backend <;> simp [hp, hb, State.emit, State.reply, State.setCal, State.setLc, firstOffset_toNat]
  | restartPass hp =>
    rw [State.configure_eq]
    cases hb : s.cfg.backend <;>
      simp [hp, hb, State.emit, State.reply, State.setCal, State.setLc, State.applyTrim, firstOffset_toNat]

/-! ### The start of a search (R127 to R129) -/

/-- The step a search starts with. -/
theorem trimOf_half (c : Cfg) : (trimOf c (2 ^ (c.k - 1))).toNat = 2 ^ (c.k - 1) := by
  refine trimOf_toNat_of_eq c (by push_cast; rfl) (Nat.pow_lt_pow_right (by decide) ?_)
  have := c.k_pos
  have := c.k_add_split
  omega

/-- The middle of a searched range. -/
theorem State.trimOf_middle {s : State} (hb : s.BaseOk) :
    (trimOf s.cfg ((s.cal.base.toNat : Int) + 2 ^ (s.cfg.k - 1))).toNat =
      s.cal.base.toNat + 2 ^ (s.cfg.k - 1) := by
  have hmax := s.base_add_le hb
  have hhalf := s.cfg.two_pow_k
  have hpos : 0 < 2 ^ (s.cfg.k - 1) := by positivity
  exact trimOf_toNat_of_eq s.cfg (by push_cast; rfl) (by omega)

/-- The start of the upper half. -/
theorem trimOf_upper {c : Cfg} (hs : c.split = true) : (trimOf c (2 ^ c.k)).toNat = 2 ^ c.k := by
  refine trimOf_toNat_of_eq c (by push_cast; rfl) (Nat.pow_lt_pow_right (by decide) ?_)
  have hk := c.k_add_split
  rw [hs, Bool.toNat_true] at hk
  omega

/-- The baseline step of a split pass applies the probe (R127). -/
theorem State.stepBase_of_split {s : State} (x : Half) (hs : s.cfg.split = true) :
    s.stepBase x = (s.setCal { s.cal with baseDev := s.dev x, phase := .splitp }).probe s.cfg.splitProbe :=
  if_pos hs

/-- The baseline step of an unsplit pass searches the whole range (R127). -/
theorem State.stepBase_of_whole {s : State} (x : Half) (hs : s.cfg.split = false) :
    s.stepBase x = (s.setCal { s.cal with baseDev := s.dev x, base := 0 }).beginSearch :=
  if_neg (by simp [hs])

/-- Settles O30: with and without the split. -/
theorem measRecordsBaseline : Obligations.MeasRecordsBaseline := by
  intro s x hp
  refine ⟨_, exec_meas_base x hp, ?_⟩
  cases hs : s.cfg.split with
  | true =>
    rw [State.stepBase_of_split x hs]
    simp [State.probe, State.setCal, State.applyTrim, State.emit, State.reply]
  | false =>
    have hhalf := trimOf_half s.cfg
    rw [State.stepBase_of_whole x hs, State.beginSearch_eq]
    simp [State.setCal, State.reply, hhalf]

/-- Settles O31: the range chosen is one of the two halves, and the search starts in its middle. -/
theorem measChoosesHalf : Obligations.MeasChoosesHalf := by
  intro s x hp hs
  have hupper := trimOf_upper hs
  refine ⟨_, exec_meas_splitp x hp, ?_⟩
  by_cases hx : x.toNat < s.cfg.target.toNat
  · have hx' : x < s.cfg.target := hx
    have hmid := State.trimOf_middle
      (s := s.setCal { s.cal with base := trimOf s.cfg (2 ^ s.cfg.k) }) (.inr ⟨hs, hupper⟩)
    rw [State.stepSplit, State.beginSearch_eq]
    simpa [State.setCal, State.reply, hx, hx', hupper, trimOf_half] using hmid
  · have hx' : ¬ x < s.cfg.target := hx
    rw [State.stepSplit, State.beginSearch_eq]
    simp [State.setCal, State.reply, hx, hx', trimOf_half]

/-! ### The search (R130, R131) -/

theorem half_toNat (b : Byte) : (b >>> 1).toNat = b.toNat / 2 := by
  simp [BitVec.toNat_ushiftRight, Nat.shiftRight_eq_div_pow]

theorem State.CalOk.searching {s : State} (h : s.CalOk) (hp : s.cal.phase = .search) : s.Searching := by
  obtain ⟨-, -, -, hsearch, -⟩ := h
  exact hsearch hp

/-- A trial that moves by half the step stays a trim value (R130, R138 item 3). -/
theorem State.nextTrial_toNat {s : State} (x : Half) (h : s.Searching) :
    (s.nextTrial x (s.cal.step >>> 1)).toNat =
      if x.toNat < s.cfg.target.toNat then s.cal.trial.toNat + s.cal.step.toNat / 2
      else s.cal.trial.toNat - s.cal.step.toNat / 2 := by
  obtain ⟨hb, -, ⟨j, -, hj⟩, hlo, hhi⟩ := h
  have hmax := s.base_add_le hb
  have hpos : 0 < 2 ^ j := by positivity
  unfold State.nextTrial
  simp only [half_toNat, BitVec.lt_def]
  split
  · exact trimOf_toNat_of_eq s.cfg (by push_cast; rfl) (by omega)
  · exact trimOf_toNat_of_eq s.cfg (by omega) (by omega)

/-- Settles O32: the moving step of the search. -/
theorem measHalvesStep : Obligations.MeasHalvesStep := by
  intro s x hs hp h2
  refine ⟨_, exec_meas_search x hp, ?_⟩
  rcases s.stepSearch_cases x with ⟨-, e⟩ | ⟨h1, -⟩ | ⟨h1, -⟩
  · rw [e]
    exact ⟨rfl, rfl, rfl, half_toNat _, State.nextTrial_toNat x (hs.searching hp), rfl, rfl⟩
  · omega
  · omega

/-- Settles O33: the abandoning step of the search. -/
theorem measAbandonsWorseResult : Obligations.MeasAbandonsWorseResult := by
  intro s x hp h1 hd
  rw [exec_meas_search x hp]
  rcases s.stepSearch_cases x with ⟨h2, -⟩ | ⟨-, -, e⟩ | ⟨-, hd', -⟩
  · omega
  · rw [e]; rfl
  · omega

/-! ### The candidates of a neighbourhood (R132, R133) -/

/-- The searched range, in naturals. -/
theorem Cal.admissible_iff_nat {c : Cal} {k i : Nat} :
    c.admissible k i = true ↔
      c.base.toNat + 2 ≤ c.coarse.toNat + i ∧ c.coarse.toNat + i < c.base.toNat + 2 ^ k + 2 := by
  have hpow : (2 : Int) ^ k = (2 ^ k : Nat) := by push_cast; rfl
  rw [Cal.admissible_iff, hpow]
  omega

/-- The first candidate of an optimum inside its range lies at the lower edge, or two below the optimum (R132). -/
theorem Cal.nextCand_first {c : Cal} {k : Nat} (hlo : c.base.toNat < c.coarse.toNat)
    (hhi : c.coarse.toNat < c.base.toNat + 2 ^ k) :
    c.nextCand k 0 = some (c.base.toNat + 2 - c.coarse.toNat) := by
  refine Cal.nextCand_eq_some.2 ⟨by omega, by omega, Cal.admissible_iff_nat.2 (by omega), fun i _ hi => ?_⟩
  rw [Bool.eq_false_iff, Ne, Cal.admissible_iff_nat]
  omega

/-- After an admissible candidate comes the next one, unless it is the last of the five or of the range (R133). -/
theorem Cal.nextCand_succ {c : Cal} {k i : Nat} (ha : c.admissible k i = true) :
    c.nextCand k (i + 1) =
      if i < 4 ∧ c.coarse.toNat + i + 1 < c.base.toNat + 2 ^ k + 2 then some (i + 1) else none := by
  rw [Cal.admissible_iff_nat] at ha
  split
  · exact Cal.nextCand_eq_some.2 ⟨le_rfl, by omega, Cal.admissible_iff_nat.2 (by omega), by omega⟩
  · refine Cal.nextCand_eq_none.2 fun j hj hj5 => ?_
    rw [Bool.eq_false_iff, Ne, Cal.admissible_iff_nat]
    omega

/-- The neighbourhood starts at its first candidate (R132). -/
theorem State.beginNeigh_first {s : State} (hb : s.BaseOk) (hlo : s.cal.base.toNat < s.cal.coarse.toNat)
    (hhi : s.cal.coarse.toNat < s.cal.base.toNat + 2 ^ s.cfg.k) :
    ∃ (v : Byte) (i : BitVec 3),
      v.toNat = max s.cal.base.toNat (s.cal.coarse.toNat - 2) ∧ i.toNat = v.toNat + 2 - s.cal.coarse.toNat ∧
      s.beginNeigh = { s with
        osctrim := v
        cal := { s.cal with best := s.cal.coarse, bestDev := 0xFFFF, idx := i, phase := .neigh }
        trace := s.trace ++ [.trimWrite v, .measRequest] } := by
  have hfirst := Cal.nextCand_first hlo hhi
  obtain ⟨-, -, ha, -⟩ := Cal.nextCand_eq_some.1 hfirst
  obtain ⟨hcand, -⟩ := State.trimOf_cand hb ha
  exact ⟨_, _, by omega, by rw [BitVec.toNat_ofNat]; omega, State.beginNeigh_eq hfirst⟩

/-- Settles O34: the neighbourhood of the last trial, which lies inside its range. -/
theorem measStartsNeighbourhood : Obligations.MeasStartsNeighbourhood := by
  intro s x hs hp h1 hd
  obtain ⟨hb, -, ⟨j, -, hj⟩, hlo, hhi⟩ := hs.searching hp
  have hpos : 0 < 2 ^ j := by positivity
  refine ⟨_, exec_meas_search x hp, ?_⟩
  rcases s.stepSearch_cases x with ⟨h2, -⟩ | ⟨-, hd', -⟩ | ⟨-, -, e⟩
  · omega
  · omega
  · have hlo' : s.cal.base.toNat < s.cal.trial.toNat := by omega
    have hhi' : s.cal.trial.toNat < s.cal.base.toNat + 2 ^ s.cfg.k := by omega
    obtain ⟨v, i, hv, hi, e'⟩ :=
      State.beginNeigh_first (s := s.setCal { s.cal with coarse := s.cal.trial }) hb hlo' hhi'
    rw [e, e']
    exact ⟨rfl, rfl, rfl, hv, hi, rfl, rfl⟩

/-! ### The neighbourhood (R133, R134) -/

/-- In the neighbourhood the trim applied is an admissible candidate (R132, R133). -/
theorem State.CalOk.candidate_applied {s : State} (h : s.CalOk) (hp : s.cal.phase = .neigh) :
    s.cal.admissible s.cfg.k s.cal.idx.toNat = true ∧
      s.osctrim = trimOf s.cfg (s.cal.cand s.cal.idx.toNat) := by
  obtain ⟨-, -, -, -, hneigh⟩ := h
  obtain ⟨hb, -, ho, -, hrange, -⟩ := hneigh hp
  have ha : s.cal.admissible s.cfg.k s.cal.idx.toNat = true := Cal.admissible_iff_nat.2 (by omega)
  obtain ⟨hcand, -⟩ := State.trimOf_cand hb ha
  exact ⟨ha, BitVec.eq_of_toNat_eq (by omega)⟩

theorem State.scoreCand_frame (s : State) (x : Half) :
    s.scoreCand x = { s.cal with best := (s.scoreCand x).best, bestDev := (s.scoreCand x).bestDev } := by
  unfold State.scoreCand
  split <;> rfl

/-- The score of the candidate applied (R133). -/
theorem State.scoreCand_eq {s : State} (x : Half) (hs : s.CalOk) (hp : s.cal.phase = .neigh) :
    s.scoreCand x = { s.cal with
      best := if deviation s.cfg x < s.cal.bestDev.toNat then s.osctrim else s.cal.best
      bestDev := if deviation s.cfg x < s.cal.bestDev.toNat then s.dev x else s.cal.bestDev } := by
  obtain ⟨-, ho⟩ := hs.candidate_applied hp
  unfold State.scoreCand
  simp only [BitVec.lt_def, State.dev_toNat, ← ho]
  split <;> rfl

/-- Settles O35: a candidate that is not the last. -/
theorem measTriesNextCandidate : Obligations.MeasTriesNextCandidate := by
  intro s x hs hp h4 hedge
  obtain ⟨ha, -⟩ := hs.candidate_applied hp
  have ⟨_, _, _, _, hneigh⟩ := hs
  obtain ⟨hb, -, ho, -, -, -⟩ := hneigh hp
  have hsucc := (Cal.nextCand_succ ha).trans (if_pos ⟨h4, by omega⟩)
  obtain ⟨-, -, ha', -⟩ := Cal.nextCand_eq_some.1 hsucc
  obtain ⟨hcand, -⟩ := State.trimOf_cand hb ha'
  refine ⟨_, exec_meas_neigh x hp, ?_⟩
  rcases s.stepNeigh_cases x with ⟨j, hj, e⟩ | ⟨hnone, -⟩
  · obtain rfl : s.cal.idx.toNat + 1 = j := Option.some.inj (hsucc.symm.trans hj)
    rw [e, State.scoreCand_eq x hs hp]
    refine ⟨rfl, rfl, rfl, ?_, ?_, fun hlt => ?_, fun hge => ?_, rfl, rfl⟩
    · simp only [State.reply_osctrim]; omega
    · simp only [State.reply_cal, BitVec.toNat_ofNat]; omega
    · simp [hlt]
    · simp [Nat.not_lt.2 hge]
  · rw [hsucc] at hnone
    cases hnone

/-- Settles O36: the last candidate. -/
theorem measFinishesPass : Obligations.MeasFinishesPass := by
  intro s x hs hp hlast
  obtain ⟨ha, -⟩ := hs.candidate_applied hp
  have ⟨_, _, _, _, hneigh⟩ := hs
  obtain ⟨-, -, ho, -, -, -⟩ := hneigh hp
  have hend := (Cal.nextCand_succ ha).trans (if_neg (by omega))
  refine ⟨_, exec_meas_neigh x hp, ?_⟩
  rcases s.stepNeigh_cases x with ⟨j, hj, -⟩ | ⟨-, e⟩
  · rw [hend] at hj
    cases hj
  · rw [e, State.finishPass_eq, State.scoreCand_eq x hs hp]
    refine ⟨rfl, rfl, rfl, rfl, ?_, rfl, rfl⟩
    simp only [State.reply_cal, State.setCal_cal]
    split
    · rw [State.dev_toNat]; omega
    · omega

/-! ### All transitions (R136) -/

theorem half_eq_zero {b : Byte} : b >>> 1 = 0 ↔ b.toNat ≤ 1 := by
  have hzero : (0 : Byte).toNat = 0 := rfl
  rw [← BitVec.toNat_inj, half_toNat, hzero]
  omega

/-- The sequencer and the non-volatile byte belong to RESET, BUS_RESET and MEAS (R42 to R44). -/
theorem exec_keeps_cal_nv {i : Instr} {s t : State} (h : exec i s = .next t) (hr : i ≠ .reset) (hb : i ≠ .busReset)
    (hm : ∀ x, i ≠ .meas x) : t.cal = s.cal ∧ t.nv = s.nv := by
  obtain ⟨-, -, -, -, -, -, -, -, -, -, -, hcal, hnv, -⟩ := onlyNamedOperationsWrite i s t h
  constructor
  · by_contra hne
    obtain rfl | rfl | ⟨x, rfl⟩ := hcal (.inl hne)
    · exact hr rfl
    · exact hb rfl
    · exact hm x rfl
  · by_contra hne
    obtain ⟨x, rfl⟩ := hnv hne
    exact hm x rfl

/-- Settles O37: the five phases of MEAS, the two operations that set the phase, and the others, which keep it. -/
theorem phaseTransitions : Obligations.PhaseTransitions := by
  intro i s t h
  by_cases hother : i ≠ .reset ∧ i ≠ .busReset ∧ ∀ x, i ≠ .meas x
  · obtain ⟨hr, hb, hm⟩ := hother
    exact ⟨(absurd · hr), (absurd · hb), fun x hx => absurd hx (hm x),
      fun _ _ _ => congrArg Cal.phase (exec_keeps_cal_nv h hr hb hm).1⟩
  cases exec_effect h with
  | reset => simp [State.configure_eq, State.loadTrim, State.clearAll]
  | startPass hp => simp
  | restartPass hp => simp
  | measIdle x hp => simp [hp]
  | measBase x hp =>
    cases hs : s.cfg.split with
    | true => simp [hp, State.stepBase_of_split x hs, State.probe]
    | false => simp [hp, State.stepBase_of_whole x hs, State.beginSearch_eq]
  | measSplit x hp => simp [hp, State.stepSplit, State.beginSearch_eq]
  | measSearch x hp =>
    rcases s.stepSearch_cases x with ⟨h2, e⟩ | ⟨h1, hd, e⟩ | ⟨h1, hd, e⟩
    · have hz : s.cal.step >>> 1 ≠ 0 := fun hz => absurd (half_eq_zero.1 hz) (by omega)
      simp only [hp, e, hz]
      simp
    · simp [hp, e, half_eq_zero.2 h1, hd]
    · simp [hp, e, half_eq_zero.2 h1, hd, State.beginNeigh, State.probe]
  | measNeigh x hp =>
    simp only [← Cal.admissible_iff]
    rw [hp]
    refine ⟨nofun, nofun, fun y hy => ⟨nofun, nofun, nofun, nofun, nofun, nofun, nofun, fun _ => ?_⟩,
      fun _ _ hm => absurd rfl (hm x)⟩
    rcases s.stepNeigh_cases x with ⟨j, hj, e⟩ | ⟨hnone, e⟩
    · obtain ⟨hlt, hj5, ha, -⟩ := Cal.nextCand_eq_some.1 hj
      exact ⟨fun _ => by rw [e, State.scoreCand_frame]; exact hp,
        fun hnot => absurd ⟨j, by omega, by omega, ha⟩ hnot⟩
    · have hall := Cal.nextCand_eq_none.1 hnone
      refine ⟨fun ⟨j, hlt, hj4, ha⟩ => ?_, fun _ => ?_⟩
      · simp [hall j (by omega) (by omega)] at ha
      · rw [e, State.finishPass_eq]; rfl
  | _ => simp at hother

end Sys2Proof.Machine
end

section
/-! PROOFS. An abandoned pass leaves trim and non-volatile byte as they were (O39). -/

namespace Sys2Proof.Machine

/-- A law that every operation of a run keeps holds at its end. -/
theorem runOps_keeps {P : State → Prop} {A : Instr → Prop}
    (hexec : ∀ i s t, A i → exec i s = .next t → P s → P t) {is : List Instr} {s t : State}
    (his : ∀ i ∈ is, A i) (h : runOps is s = some t) (hs : P s) : P t := by
  induction is generalizing s with
  | nil => exact Option.some.inj h ▸ hs
  | cons i is ih =>
    obtain ⟨u, hu, hrun⟩ := runOps_cons h
    obtain ⟨hi, hrest⟩ := List.forall_mem_cons.1 his
    exact ih hrest hrun (hexec i s u hi hu hs)

/-- The state belongs to a pass that was begun with trim `trim` in force and `nv` stored (R123): the former is saved,
and until the neighbourhood is reached the latter is in store. -/
def State.PassFrom (trim nv : Byte) (s : State) : Prop :=
  s.cal.saved = trim ∧ (s.cal.phase ≠ .idle → s.cal.phase ≠ .neigh → s.nv = nv)

theorem State.stepBase_saved_nv (s : State) (x : Half) :
    (s.stepBase x).cal.saved = s.cal.saved ∧ (s.stepBase x).nv = s.nv := by
  unfold State.stepBase
  split <;> exact ⟨rfl, rfl⟩

theorem State.stepSearch_saved_nv (s : State) (x : Half) :
    (s.stepSearch x).cal.saved = s.cal.saved ∧ (s.stepSearch x).nv = s.nv := by
  rcases s.stepSearch_cases x with ⟨-, e⟩ | ⟨-, -, e⟩ | ⟨-, -, e⟩ <;>
    · rw [e]
      exact ⟨rfl, rfl⟩

/-- A neighbourhood step keeps the saved trim and leads on in the neighbourhood or to the end of the pass (R133). -/
theorem State.stepNeigh_saved_phase {s : State} (x : Half) (hp : s.cal.phase = .neigh) :
    (s.stepNeigh x).cal.saved = s.cal.saved ∧
      ((s.stepNeigh x).cal.phase = .neigh ∨ (s.stepNeigh x).cal.phase = .idle) := by
  rcases s.stepNeigh_cases x with ⟨j, -, e⟩ | ⟨-, e⟩ <;> rw [e]
  · rw [State.scoreCand_frame]
    exact ⟨rfl, .inl hp⟩
  · rw [State.finishPass_eq, State.scoreCand_frame]
    exact ⟨rfl, .inr rfl⟩

/-- Until BUS_RESET or RESET every operation stays in the pass (R121). -/
theorem exec_keeps_passFrom {trim nv : Byte} {i : Instr} {s t : State} (hi : i ≠ .reset ∧ i ≠ .busReset)
    (h : exec i s = .next t) (hs : s.PassFrom trim nv) : t.PassFrom trim nv := by
  obtain ⟨hr, hb⟩ := hi
  have ⟨hsaved, hnv⟩ := hs
  by_cases hm : ∀ x, i ≠ .meas x
  · obtain ⟨hcal, hn⟩ := exec_keeps_cal_nv h hr hb hm
    rwa [State.PassFrom, hcal, hn]
  cases exec_effect h with
  | measIdle x hp => exact hs
  | measBase x hp =>
    obtain ⟨hsaved', hnv'⟩ := s.stepBase_saved_nv x
    exact ⟨hsaved'.trans hsaved, fun _ _ => hnv'.trans (hnv (by simp [hp]) (by simp [hp]))⟩
  | measSplit x hp => exact ⟨hsaved, fun _ _ => hnv (by simp [hp]) (by simp [hp])⟩
  | measSearch x hp =>
    obtain ⟨hsaved', hnv'⟩ := s.stepSearch_saved_nv x
    exact ⟨hsaved'.trans hsaved, fun _ _ => hnv'.trans (hnv (by simp [hp]) (by simp [hp]))⟩
  | measNeigh x hp =>
    obtain ⟨hsaved', hphase⟩ := State.stepNeigh_saved_phase x hp
    refine ⟨hsaved'.trans hsaved, fun hidle hneigh => ?_⟩
    exact hphase.elim (absurd · hneigh) (absurd · hidle)
  | reset => exact absurd rfl hr
  | startPass hp => exact absurd rfl hb
  | restartPass hp => exact absurd rfl hb
  | _ => simp at hm

/-- Settles O39: the pass is followed from BUS_RESET to the search's last measurement, whose abandoning step restores
what was saved. -/
theorem abandonedPassRestoresTrim : Obligations.AbandonedPassRestoresTrim := by
  intro is s t u v x hidle hstart his hrun hsearch hmeas hend
  have ht : t.PassFrom s.osctrim s.nv := by
    cases exec_effect hstart with
    | startPass hp => exact ⟨rfl, fun _ _ => by simp [State.configure_eq]⟩
    | restartPass hp => exact absurd hidle hp
  have ⟨hsaved, hnv⟩ : u.PassFrom s.osctrim s.nv :=
    runOps_keeps (fun _ _ _ => exec_keeps_passFrom) his hrun ht
  have hnv' : u.nv = s.nv := hnv (by simp [hsearch]) (by simp [hsearch])
  rw [exec_meas_search x hsearch] at hmeas
  cases hmeas
  rcases u.stepSearch_cases x with ⟨-, e⟩ | ⟨-, -, e⟩ | ⟨-, -, e⟩ <;> rw [e] at hend ⊢
  · simp [hsearch] at hend
  · exact ⟨rfl, hsaved, hnv'⟩
  · cases hend

end Sys2Proof.Machine
end

section
/-! PROOFS. The number of measurements of a pass (O40): each phase counts down the measurements it has left. -/

namespace Sys2Proof.Machine

/-- A phase that counts its measurements down from `n` takes exactly `n + 1` of them. -/
theorem runOps_meas_countdown {P : Nat → State → Prop} {Q : State → Prop}
    (hlast : ∀ s x, P 0 s → ∃ t, exec (.meas x) s = .next t ∧ Q t)
    (hstep : ∀ n s x, P (n + 1) s → ∃ t, exec (.meas x) s = .next t ∧ P n t)
    {n : Nat} {s : State} {xs : List Half} (hs : P n s) (hl : xs.length = n + 1) :
    (∀ m < xs.length, ∃ w r, runOps ((xs.take m).map .meas) s = some w ∧ P r w) ∧
      ∃ u, runOps (xs.map .meas) s = some u ∧ Q u := by
  induction n generalizing s xs with
  | zero =>
    obtain ⟨x, rfl⟩ := List.length_eq_one_iff.1 hl
    obtain ⟨t, ht, hq⟩ := hlast s x hs
    refine ⟨fun m hm => ⟨s, 0, ?_, hs⟩, t, by simp [runOps, ht], hq⟩
    obtain rfl : m = 0 := Nat.lt_one_iff.1 hm
    rfl
  | succ n ih =>
    obtain ⟨x, rest, rfl⟩ := List.exists_cons_of_length_eq_add_one hl
    obtain ⟨t, ht, hp⟩ := hstep n s x hs
    obtain ⟨hbefore, u, hu, hq⟩ := ih hp (Nat.succ.inj hl)
    refine ⟨fun m hm => ?_, u, by simpa [runOps, ht] using hu, hq⟩
    cases m with
    | zero => exact ⟨s, n + 1, rfl, hs⟩
    | succ m =>
      obtain ⟨w, r, hw, hr⟩ := hbefore m (Nat.lt_of_succ_lt_succ hm)
      exact ⟨w, r, by simpa [runOps, ht] using hw, hr⟩

/-- Up to the end of its search, a pass takes `n` measurements after the next one (R127, R128, R130). -/
def State.SearchLeft (n : Nat) (s : State) : Prop :=
  s.CalOk ∧
    (s.cal.phase = .base ∧ n = s.cfg.split.toNat + s.cfg.k ∨
      s.cal.phase = .splitp ∧ n = s.cfg.k ∨
      s.cal.phase = .search ∧ s.cal.step.toNat = 2 ^ n)

/-- In its neighbourhood, a pass takes `n` measurements after the next one: up to the fifth candidate or to the upper
edge of the range (R133). -/
def State.NeighLeft (n : Nat) (s : State) : Prop :=
  s.CalOk ∧ s.cal.phase = .neigh ∧
    n + 1 = min (5 - s.cal.idx.toNat) (s.cal.base.toNat + 2 ^ s.cfg.k - s.osctrim.toNat)

/-- The first candidate is applied, nothing is scored yet, and as many measurements are left as there are candidates
(R132). -/
def State.NeighStarted (u : State) : Prop :=
  u.NeighLeft (u.candidates - 1) ∧ 0 < u.candidates ∧
    u.osctrim.toNat = max u.cal.base.toNat (u.cal.coarse.toNat - 2) ∧
    u.cal.best = u.cal.coarse ∧ u.cal.bestDev = 0xFFFF

theorem State.SearchLeft.phase_ne_idle {n : Nat} {s : State} (h : s.SearchLeft n) : s.cal.phase ≠ .idle := by
  obtain ⟨-, ⟨hp, -⟩ | ⟨hp, -⟩ | ⟨hp, -⟩⟩ := h <;> simp [hp]

/-- A measurement that does not end the search. -/
theorem State.SearchLeft.meas {n : Nat} {s : State} (x : Half) (h : s.SearchLeft (n + 1)) :
    ∃ t, exec (.meas x) s = .next t ∧ t.SearchLeft n := by
  obtain ⟨hs, ⟨hp, hn⟩ | ⟨hp, hn⟩ | ⟨hp, hn⟩⟩ := h
  · obtain ⟨t, ht, -, -, -, -, -, hsplit, hwhole⟩ := measRecordsBaseline s x hp
    refine ⟨t, ht, exec_keeps_calOk ht hs, ?_⟩
    rw [exec_cfg ht]
    cases hsp : s.cfg.split with
    | true =>
      rw [hsp, Bool.toNat_true] at hn
      exact .inr (.inl ⟨congrArg Cal.phase (hsplit hsp).2, by omega⟩)
    | false =>
      obtain ⟨htrim, hcal⟩ := hwhole hsp
      rw [hsp, Bool.toNat_false] at hn
      obtain rfl : n = s.cfg.k - 1 := by omega
      exact .inr (.inr ⟨congrArg Cal.phase hcal, by rw [hcal]; exact htrim⟩)
  · have ⟨_, _, hprobe, _⟩ := hs
    obtain ⟨hsp, -⟩ := hprobe hp
    obtain ⟨t, ht, -, -, -, -, -, hstep, hcal, -⟩ := measChoosesHalf s x hp hsp
    obtain rfl : n = s.cfg.k - 1 := by omega
    exact ⟨t, ht, exec_keeps_calOk ht hs, .inr (.inr ⟨congrArg Cal.phase hcal, hstep⟩)⟩
  · rw [Nat.pow_succ] at hn
    have hpos : 0 < 2 ^ n := by positivity
    obtain ⟨t, ht, -, -, -, hstep, -, hcal, -⟩ := measHalvesStep s x hs hp (by omega)
    exact ⟨t, ht, exec_keeps_calOk ht hs, .inr (.inr ⟨(congrArg Cal.phase hcal).trans hp, by omega⟩)⟩

/-- The measurement that ends the search abandons the pass or starts its neighbourhood (R131, R132). -/
theorem State.CalOk.meas_ends_search {s : State} (x : Half) (hs : s.CalOk) (hp : s.cal.phase = .search)
    (h1 : s.cal.step.toNat = 1) :
    ∃ t, exec (.meas x) s = .next t ∧ t.cal.base = s.cal.base ∧ t.cal.coarse = s.cal.trial ∧
      (t.cal.phase = .idle ∨ t.NeighStarted) := by
  obtain ⟨-, -, -, hlo, hhi⟩ := hs.searching hp
  rcases Nat.lt_or_ge s.cal.baseDev.toNat (deviation s.cfg x) with hd | hd
  · exact ⟨_, measAbandonsWorseResult s x hp h1.le hd, rfl, rfl, .inl rfl⟩
  · obtain ⟨t, ht, -, -, -, htrim, hidx, hcal, -⟩ := measStartsNeighbourhood s x hs hp h1.le hd
    have hbase : t.cal.base = s.cal.base := by rw [hcal]
    have hcoarse : t.cal.coarse = s.cal.trial := by rw [hcal]
    have hcount : t.candidates = min (5 - t.cal.idx.toNat) (t.cal.base.toNat + 2 ^ t.cfg.k - t.osctrim.toNat) ∧
        0 < t.candidates := by
      simp only [State.candidates, hbase, hcoarse, exec_cfg ht]
      omega
    refine ⟨t, ht, hbase, hcoarse, .inr ⟨⟨exec_keeps_calOk ht hs, congrArg Cal.phase hcal, by omega⟩, hcount.2, ?_⟩⟩
    exact ⟨by rw [hbase, hcoarse]; exact htrim, by rw [hcal], by rw [hcal]⟩

/-- The last measurement counted ends the search. -/
theorem State.SearchLeft.meas_last {s : State} (x : Half) (h : s.SearchLeft 0) :
    ∃ t, exec (.meas x) s = .next t ∧ (t.cal.phase = .idle ∨ t.NeighStarted) := by
  have hk := s.cfg.k_pos
  obtain ⟨hs, ⟨-, hn⟩ | ⟨-, hn⟩ | ⟨hp, hn⟩⟩ := h
  · omega
  · omega
  · obtain ⟨t, ht, -, -, hend⟩ := hs.meas_ends_search x hp hn
    exact ⟨t, ht, hend⟩

/-- A measurement of a candidate that is not the last. -/
theorem State.NeighLeft.meas {n : Nat} {s : State} (x : Half) (h : s.NeighLeft (n + 1)) :
    ∃ t, exec (.meas x) s = .next t ∧ t.NeighLeft n := by
  obtain ⟨hs, hp, hn⟩ := h
  obtain ⟨t, ht, -, -, -, htrim, hidx, -, -, hcal, -⟩ := measTriesNextCandidate s x hs hp (by omega) (by omega)
  have hbase : t.cal.base = s.cal.base := by rw [hcal]
  refine ⟨t, ht, exec_keeps_calOk ht hs, (congrArg Cal.phase hcal).trans hp, ?_⟩
  rw [hbase, exec_cfg ht]
  omega

/-- The last candidate's measurement ends the pass. -/
theorem State.NeighLeft.meas_last {s : State} (x : Half) (h : s.NeighLeft 0) :
    ∃ t, exec (.meas x) s = .next t ∧ t.cal.phase = .idle := by
  obtain ⟨hs, hp, hn⟩ := h
  have ⟨_, _, _, _, hneigh⟩ := hs
  obtain ⟨-, hi, -, -, hrange, -⟩ := hneigh hp
  obtain ⟨t, ht, -, -, -, hcal, -⟩ := measFinishesPass s x hs hp (by omega)
  exact ⟨t, ht, congrArg Cal.phase hcal⟩

/-- Settles O40: the two countdowns, one after the other. -/
theorem passTakesCountedMeasurements : Obligations.PassTakesCountedMeasurements := by
  intro s xs ys hs hp hxs
  have hstart : s.SearchLeft (s.cfg.split.toNat + s.cfg.k) := ⟨hs, .inl ⟨hp, rfl⟩⟩
  obtain ⟨hbefore, u, hu, hended⟩ := runOps_meas_countdown (fun _ x h => h.meas_last x)
    (fun _ _ x h => h.meas x) hstart (xs := xs) (by omega)
  refine ⟨fun n hn => ?_, u, hu, hended.imp_right ?_⟩
  · obtain ⟨w, r, hw, hleft⟩ := hbefore n hn
    exact ⟨w, hw, hleft.phase_ne_idle⟩
  · rintro ⟨hleft, hpos, -⟩
    have ⟨_, hphase, _⟩ := hleft
    refine ⟨hphase, by unfold State.candidates; omega, fun hys => ?_⟩
    obtain ⟨hbetween, v, hv, hidle⟩ := runOps_meas_countdown (fun _ x h => h.meas_last x)
      (fun _ _ x h => h.meas x) hleft (xs := ys) (by omega)
    refine ⟨fun m hm => ?_, v, hv, hidle⟩
    obtain ⟨w, r, hw, -, hneigh, -⟩ := hbetween m hm
    exact ⟨w, hw, hneigh⟩

end Sys2Proof.Machine
end

section
/-! PROOFS. The search converges and the neighbourhood search is exact (O41): the search keeps the least trim that
reaches the target between its trial less and plus the step, and the neighbourhood scores every candidate. -/

namespace Sys2Proof.Machine

/-- A phase that counts its measurements down from `n` ends a `CAL` loop of `n + 1` rounds. -/
theorem calRun_countdown {f : Byte → Half} {P : Nat → State → Prop} {Q : State → Prop}
    (hlast : ∀ s, P 0 s → ∃ t, exec (.meas (f s.osctrim)) s = .next t ∧ Q t)
    (hstep : ∀ n s, P (n + 1) s → ∃ t, exec (.meas (f s.osctrim)) s = .next t ∧ P n t)
    {n : Nat} {s : State} (hs : P n s) : ∃ u, calRun f (n + 1) s = some u ∧ Q u := by
  induction n generalizing s with
  | zero =>
    obtain ⟨t, ht, hq⟩ := hlast s hs
    exact ⟨t, by simp [calRun, runOps, ht], hq⟩
  | succ n ih =>
    obtain ⟨t, ht, hp⟩ := hstep n s hs
    obtain ⟨u, hu, hq⟩ := ih hp
    exact ⟨u, by rw [calRun]; simpa [runOps, ht] using hu, hq⟩

/-! ### The oscillator on a range -/

/-- The deviation of a trim on the oscillator `f` (R126). -/
def trimDev (c : Cfg) (f : Byte → Half) (a : Byte) : Nat := deviation c (f a)

/-- The oscillator is non-decreasing on the searched range (R139). -/
def State.NonDecreasing (s : State) (f : Byte → Half) : Prop :=
  ∀ a b : Byte, s.cal.base.toNat ≤ a.toNat → a.toNat ≤ b.toNat →
    b.toNat < s.cal.base.toNat + 2 ^ s.cfg.k → (f a).toNat ≤ (f b).toNat

/-- `c` is the least trim of the searched range that reaches the target, or the range's end (R139). -/
def State.Crosses (s : State) (f : Byte → Half) (c : Nat) : Prop :=
  s.cal.base.toNat ≤ c ∧ c ≤ s.cal.base.toNat + 2 ^ s.cfg.k ∧
    ∀ a : Byte, s.InRange a.toNat → ((f a).toNat < s.cfg.target.toNat ↔ a.toNat < c)

/-- `c` ends the range, or a trim of the range with value `c` reaches the target. -/
def State.Reached (s : State) (f : Byte → Half) (c : Nat) : Prop :=
  c = s.cal.base.toNat + 2 ^ s.cfg.k ∨
    ∃ a : Byte, s.InRange a.toNat ∧ a.toNat = c ∧ s.cfg.target.toNat ≤ (f a).toNat

theorem State.exists_crosses {s : State} {f : Byte → Half} (hm : s.NonDecreasing f) : ∃ c, s.Crosses f c := by
  classical
  have hpos : 0 < 2 ^ s.cfg.k := by positivity
  have hex : ∃ c, s.Reached f c := ⟨_, .inl rfl⟩
  have hle : Nat.find hex ≤ s.cal.base.toNat + 2 ^ s.cfg.k := Nat.find_min' hex (.inl rfl)
  have hfind := Nat.find_spec hex
  refine ⟨Nat.find hex, ?_, hle, fun a ha => ⟨fun hslow => ?_, fun hlt => ?_⟩⟩
  · rcases hfind with h | ⟨a, ⟨hlo, -⟩, hac, -⟩ <;> omega
  · obtain ⟨hlo, hhi⟩ := ha
    rcases hfind with h | ⟨b, ⟨hblo, -⟩, hbc, hb⟩
    · omega
    · by_contra hge
      have := hm b a hblo (by omega) hhi
      omega
  · by_contra hreach
    exact Nat.find_min hex hlt (.inr ⟨a, ha, rfl, by omega⟩)

/-- A value of the range is a trim. -/
theorem State.InRange.exists_trim {s : State} {n : Nat} (h : s.InRange n) (hb : s.BaseOk) :
    ∃ a : Byte, a.toNat = n := by
  have hlt := h.trim hb
  have := Nat.pow_le_pow_right (n := 2) (by decide) s.cfg.trimBits_le
  exact ⟨BitVec.ofNat 8 n, by rw [BitVec.toNat_ofNat]; omega⟩

/-- Of the trims that are too slow the highest deviates least. -/
theorem State.Crosses.trimDev_le_of_lt {s : State} {f : Byte → Half} {c : Nat} (hc : s.Crosses f c)
    (hm : s.NonDecreasing f) {p a : Byte} (hp : s.InRange p.toNat) (hpc : p.toNat + 1 = c)
    (ha : s.InRange a.toNat) (hac : a.toNat < c) : trimDev s.cfg f p ≤ trimDev s.cfg f a := by
  obtain ⟨-, -, hslow⟩ := hc
  have := (hslow p hp).2 (by omega)
  have := hm a p ha.1 (by omega) hp.2
  unfold trimDev deviation
  omega

/-- Of the trims that reach the target the lowest deviates least. -/
theorem State.Crosses.trimDev_le_of_ge {s : State} {f : Byte → Half} {c : Nat} (hc : s.Crosses f c)
    (hm : s.NonDecreasing f) {q a : Byte} (hq : s.InRange q.toNat) (hqc : q.toNat = c)
    (ha : s.InRange a.toNat) (hac : c ≤ a.toNat) : trimDev s.cfg f q ≤ trimDev s.cfg f a := by
  obtain ⟨-, -, hslow⟩ := hc
  have := (hslow q hq).not.2 (by omega)
  have := hm q a hq.1 (by omega) ha.2
  unfold trimDev deviation
  omega

/-- A trim of the range of least deviation. -/
def State.Minimises (s : State) (f : Byte → Half) (b : Byte) : Prop :=
  s.InRange b.toNat ∧ ∀ a : Byte, s.InRange a.toNat → trimDev s.cfg f b ≤ trimDev s.cfg f a

/-- The least deviation is that of the crossing or of the trim below it. -/
theorem State.Crosses.exists_minimises {s : State} {f : Byte → Half} {c : Nat} (hc : s.Crosses f c)
    (hm : s.NonDecreasing f) (hb : s.BaseOk) :
    ∃ b : Byte, s.Minimises f b ∧ (b.toNat = c ∨ b.toNat + 1 = c) := by
  have hpos : 0 < 2 ^ s.cfg.k := by positivity
  have ⟨hlo, hhi, _⟩ := hc
  by_cases hfirst : c = s.cal.base.toNat
  · obtain ⟨q, hq⟩ := State.InRange.exists_trim (s := s) (n := c) ⟨hlo, by omega⟩ hb
    have hqr : s.InRange q.toNat := ⟨by omega, by omega⟩
    exact ⟨q, ⟨hqr, fun a ha => hc.trimDev_le_of_ge hm hqr hq ha (hfirst ▸ ha.1)⟩, .inl hq⟩
  obtain ⟨p, hp⟩ := State.InRange.exists_trim (s := s) (n := c - 1) ⟨by omega, by omega⟩ hb
  have hpr : s.InRange p.toNat := ⟨by omega, by omega⟩
  by_cases hlast : c = s.cal.base.toNat + 2 ^ s.cfg.k
  · exact ⟨p, ⟨hpr, fun a ha => hc.trimDev_le_of_lt hm hpr (by omega) ha (hlast ▸ ha.2)⟩, .inr (by omega)⟩
  obtain ⟨q, hq⟩ := State.InRange.exists_trim (s := s) (n := c) ⟨hlo, by omega⟩ hb
  have hqr : s.InRange q.toNat := ⟨by omega, by omega⟩
  rcases le_total (trimDev s.cfg f p) (trimDev s.cfg f q) with h | h
  · refine ⟨p, ⟨hpr, fun a ha => ?_⟩, .inr (by omega)⟩
    rcases Nat.lt_or_ge a.toNat c with hac | hac
    · exact hc.trimDev_le_of_lt hm hpr (by omega) ha hac
    · exact h.trans (hc.trimDev_le_of_ge hm hqr hq ha hac)
  · refine ⟨q, ⟨hqr, fun a ha => ?_⟩, .inl hq⟩
    rcases Nat.lt_or_ge a.toNat c with hac | hac
    · exact h.trans (hc.trimDev_le_of_lt hm hpr (by omega) ha hac)
    · exact hc.trimDev_le_of_ge hm hqr hq ha hac

/-! ### The search -/

/-- A search in the range of `s₀` with step `2^n`: the crossing `c` lies in the interval the trials can still reach,
above its lower end unless that is the range's (R130). -/
def State.Bracketed (s₀ : State) (c n : Nat) (s : State) : Prop :=
  s.CalOk ∧ s.cal.phase = .search ∧ s.cal.step.toNat = 2 ^ n ∧ s.cfg = s₀.cfg ∧ s.cal.base = s₀.cal.base ∧
    c ≤ s.cal.trial.toNat + 2 ^ n ∧
    (s.cal.trial.toNat = s₀.cal.base.toNat + 2 ^ n ∨ s.cal.trial.toNat < c + 2 ^ n)

/-- The search of the range of `s₀` has ended at its crossing or the trim below it, or next to a crossing at the
range's lower end. -/
def State.Settled (s₀ : State) (c : Nat) (u : State) : Prop :=
  u.cfg = s₀.cfg ∧ u.cal.base = s₀.cal.base ∧
    (s₀.cal.base.toNat < u.cal.coarse.toNat ∧ u.cal.coarse.toNat < s₀.cal.base.toNat + 2 ^ s₀.cfg.k) ∧
    (c ≤ u.cal.coarse.toNat + 1 ∧ (u.cal.coarse.toNat = s₀.cal.base.toNat + 1 ∨ u.cal.coarse.toNat ≤ c)) ∧
    (u.cal.phase = .idle ∨ u.NeighStarted)

/-- Each measurement halves the interval around the crossing. -/
theorem State.Bracketed.meas {s₀ s : State} {f : Byte → Half} {c n : Nat} (hc : s₀.Crosses f c)
    (h : s₀.Bracketed c (n + 1) s) :
    ∃ t, exec (.meas (f s.osctrim)) s = .next t ∧ s₀.Bracketed c n t := by
  obtain ⟨hs, hp, hstep, hcfg, hbase, hhi, hlo⟩ := h
  obtain ⟨-, -, hslow⟩ := hc
  obtain ⟨-, htrial, -, hrlo, hrhi⟩ := hs.searching hp
  have hpos : 0 < 2 ^ n := by positivity
  rw [Nat.pow_succ] at hstep hhi hlo
  rw [hbase] at hrlo hrhi
  rw [hcfg] at hrhi
  have hside := hslow s.osctrim (by rw [htrial]; exact ⟨by omega, by omega⟩)
  obtain ⟨t, ht, -, -, -, hstep', htrim, hcal, -⟩ := measHalvesStep s (f s.osctrim) hs hp (by omega)
  have htrial' : t.cal.trial = t.osctrim := by rw [hcal]
  have hbase' : t.cal.base = s.cal.base := by rw [hcal]
  rw [hcfg, htrial] at htrim
  rw [htrial] at hside
  refine ⟨t, ht, exec_keeps_calOk ht hs, (congrArg Cal.phase hcal).trans hp, by omega, (exec_cfg ht).trans hcfg,
    hbase'.trans hbase, ?_⟩
  rw [htrial', htrim]
  split_ifs with hx
  · have := hside.1 hx
    exact ⟨by omega, by omega⟩
  · have := hside.not.1 hx
    exact ⟨by omega, by omega⟩

/-- The search's last measurement. -/
theorem State.Bracketed.meas_last {s₀ s : State} {c : Nat} (x : Half) (h : s₀.Bracketed c 0 s) :
    ∃ u, exec (.meas x) s = .next u ∧ s₀.Settled c u := by
  obtain ⟨hs, hp, hstep, hcfg, hbase, hhi, hlo⟩ := h
  obtain ⟨-, -, -, hrlo, hrhi⟩ := hs.searching hp
  obtain ⟨u, hu, hbase', hcoarse, hend⟩ := hs.meas_ends_search x hp hstep
  rw [hbase, hstep] at hrlo hrhi
  rw [hcfg] at hrhi
  refine ⟨u, hu, (exec_cfg hu).trans hcfg, hbase'.trans hbase, ?_, ?_, hend⟩ <;>
    · rw [hcoarse]
      omega

/-! ### The neighbourhood -/

/-- `best` deviates by at most its score `d`, and no trim from `lo` up to below `n` by less (R133). -/
def Scored (dev : Byte → Nat) (lo n : Nat) (best : Byte) (d : Nat) : Prop :=
  dev best ≤ d ∧ ∀ a : Byte, lo ≤ a.toNat → a.toNat < n → d ≤ dev a

/-- One more trim measured: it becomes the best exactly if it deviates by strictly less (R133). -/
theorem Scored.next {dev : Byte → Nat} {lo d d' : Nat} {o best best' : Byte} (h : Scored dev lo o.toNat best d)
    (hlt : dev o < d → best' = o ∧ d' = dev o) (hge : d ≤ dev o → best' = best ∧ d' = d) :
    Scored dev lo (o.toNat + 1) best' d' := by
  obtain ⟨hbest, hall⟩ := h
  have hcase : ∀ a : Byte, a.toNat < o.toNat + 1 → a.toNat < o.toNat ∨ a = o := fun a ha =>
    (Nat.lt_succ_iff_lt_or_eq.1 ha).imp_right BitVec.eq_of_toNat_eq
  rcases Nat.lt_or_ge (dev o) d with hd | hd
  · obtain ⟨rfl, rfl⟩ := hlt hd
    refine ⟨le_rfl, fun a hlo ha => ?_⟩
    rcases hcase a ha with ha | rfl
    · exact hd.le.trans (hall a hlo ha)
    · exact le_rfl
  · obtain ⟨rfl, rfl⟩ := hge hd
    refine ⟨hbest, fun a hlo ha => ?_⟩
    rcases hcase a ha with ha | rfl
    · exact hall a hlo ha
    · exact hd

/-- The neighbourhood begun in `u`, with every candidate below the one applied scored, and `n` measurements to come
after the next one. -/
def State.Scoring (u : State) (f : Byte → Half) (n : Nat) (s : State) : Prop :=
  s.NeighLeft n ∧ s.cfg = u.cfg ∧ s.cal.base = u.cal.base ∧ s.cal.coarse = u.cal.coarse ∧
    Scored (trimDev u.cfg f) (max u.cal.base.toNat (u.cal.coarse.toNat - 2)) s.osctrim.toNat s.cal.best
      s.cal.bestDev.toNat

/-- The pass has ended at a candidate of least deviation. -/
def State.WonBest (u : State) (f : Byte → Half) (v : State) : Prop :=
  v.cal.phase = .idle ∧ u.InRange v.osctrim.toNat ∧
    ∀ a : Byte, u.InRange a.toNat → u.cal.coarse.toNat ≤ a.toNat + 2 → a.toNat ≤ u.cal.coarse.toNat + 2 →
      trimDev u.cfg f v.osctrim ≤ trimDev u.cfg f a

/-- Nothing is scored at the start, and no deviation exceeds the score given there (R132). -/
theorem State.NeighStarted.scoring {u : State} (f : Byte → Half) (h : u.NeighStarted) :
    u.Scoring f (u.candidates - 1) u := by
  obtain ⟨hleft, -, htrim, -, hdev⟩ := h
  refine ⟨hleft, rfl, rfl, rfl, ?_, fun a hlo ha => by omega⟩
  have hmax : (0xFFFF : Half).toNat = 65535 := rfl
  have := (f u.cal.best).isLt
  have := u.cfg.target.isLt
  rw [hdev, hmax]
  unfold trimDev deviation
  omega

/-- A candidate that is not the last. -/
theorem State.Scoring.meas {u s : State} {f : Byte → Half} {n : Nat} (h : u.Scoring f (n + 1) s) :
    ∃ t, exec (.meas (f s.osctrim)) s = .next t ∧ u.Scoring f n t := by
  obtain ⟨hleft, hcfg, hbase, hcoarse, hscored⟩ := h
  have ⟨hs, hp, hn⟩ := hleft
  obtain ⟨t, ht, -, -, -, htrim, -, hlt, hge, hcal, -⟩ :=
    measTriesNextCandidate s (f s.osctrim) hs hp (by omega) (by omega)
  obtain ⟨t', ht', hleft'⟩ := hleft.meas (f s.osctrim)
  cases ht.symm.trans ht'
  have hbase' : t.cal.base = s.cal.base := by rw [hcal]
  have hcoarse' : t.cal.coarse = s.cal.coarse := by rw [hcal]
  rw [hcfg] at hlt hge
  refine ⟨t, ht, hleft', (exec_cfg ht).trans hcfg, hbase'.trans hbase, hcoarse'.trans hcoarse, ?_⟩
  rw [htrim]
  exact hscored.next hlt fun hd => (hge hd).imp_right (congrArg BitVec.toNat)

/-- The last candidate. -/
theorem State.Scoring.meas_last {u s : State} {f : Byte → Half} (h : u.Scoring f 0 s) :
    ∃ v, exec (.meas (f s.osctrim)) s = .next v ∧ u.WonBest f v := by
  obtain ⟨⟨hs, hp, hn⟩, hcfg, hbase, hcoarse, hscored⟩ := h
  have ⟨_, _, _, _, hneigh⟩ := hs
  obtain ⟨-, hi, ho, -, hrange, hbest⟩ := hneigh hp
  obtain ⟨v, hv, -, -, htrim, hcal, hdev, -⟩ := measFinishesPass s (f s.osctrim) hs hp (by omega)
  rw [hbase, hcfg] at hrange hbest hn
  rw [hcoarse] at ho
  rw [hcfg] at htrim hdev
  have hwon : Scored (trimDev u.cfg f) (max u.cal.base.toNat (u.cal.coarse.toNat - 2)) (s.osctrim.toNat + 1)
      v.osctrim v.cal.bestDev.toNat :=
    hscored.next (fun hd => ⟨htrim.trans (if_pos hd), hdev.trans (min_eq_left hd.le)⟩)
      (fun hd => ⟨htrim.trans (if_neg (Nat.not_lt.2 hd)), hdev.trans (min_eq_right hd)⟩)
  obtain ⟨hscore, hall⟩ := hwon
  refine ⟨v, hv, congrArg Cal.phase hcal, ?_, fun a ha hlo hhi => hscore.trans (hall a ?_ ?_)⟩
  · rw [htrim]
    split
    · exact hrange
    · exact hbest
  · exact max_le ha.1 (by omega)
  · have := ha.2
    omega

/-- Settles O41: the search settles next to the crossing, where the deviation is least, and the neighbourhood
measures every trim so near. -/
theorem calibrationConverges : Obligations.CalibrationConverges := by
  intro s f hs hp hstep hm
  obtain ⟨hb, -, -, hlo, hhi⟩ := hs.searching hp
  have hhalf := s.cfg.two_pow_k
  have hk := s.cfg.k_pos
  obtain ⟨c, hc⟩ := State.exists_crosses (s := s) hm
  have ⟨hclo, hchi, hslow⟩ := hc
  have hstart : s.Bracketed c (s.cfg.k - 1) s := ⟨hs, hp, hstep, rfl, rfl, by omega, by omega⟩
  obtain ⟨u, hu, hcfg, hbase, hrange, hnear, hend⟩ :=
    calRun_countdown (fun s h => h.meas_last (f s.osctrim)) (fun _ _ h => h.meas hc) hstart
  rw [Nat.sub_add_cancel hk] at hu
  obtain ⟨b, ⟨hbr, hbmin⟩, hbc⟩ := hc.exists_minimises hm hb
  refine ⟨u, hu, ⟨c, hclo, hchi, fun a ha hac => (hslow a ⟨ha, by omega⟩).2 hac, fun a hac hlt => ?_, by omega⟩,
    ⟨b, hbr.1, hbr.2, fun a ha ha' => hbmin a ⟨ha, ha'⟩, ?_, by omega⟩, fun hneigh => ?_⟩
  · have := (hslow a ⟨by omega, by omega⟩).not.2 (by omega)
    omega
  · have := hbr.1
    omega
  · obtain hidle | hstarted := hend
    · simp [hidle] at hneigh
    obtain ⟨v, hv, hidle, hvr, hvmin⟩ :=
      calRun_countdown (fun _ h => h.meas_last) (fun _ _ h => h.meas) (hstarted.scoring f)
    have ⟨_, hpos, _⟩ := hstarted
    rw [Nat.sub_add_cancel hpos] at hv
    rw [State.InRange, hbase, hcfg] at hvr
    refine ⟨v, hv, hidle, hvr.1, hvr.2, fun a ha ha' => ?_⟩
    have hbest := hvmin b (by rw [State.InRange, hbase, hcfg]; exact hbr) (by omega) (by omega)
    rw [hcfg] at hbest
    exact hbest.trans (hbmin a ⟨ha, ha'⟩)

end Sys2Proof.Machine
end

section
/-! PROOFS. Occupancy (O18), the gates' hysteresis (O20), and what USB_OUT and USB_IN_READY do to the rings
(O21 to O23). -/

namespace Sys2Proof.Machine

/-! ### Occupancy (R151) -/

/-- The distance from slot `a` to slot `b` around the ring (R151). -/
theorem ringDistance_eq {cap a b : Nat} (ha : a < cap) (hb : b < cap) :
    (b + cap - a) % cap = if a ≤ b then b - a else b + cap - a := by
  split
  · rw [show b + cap - a = (b - a) + cap by omega, Nat.add_mod_right, Nat.mod_eq_of_lt (by omega)]
  · exact Nat.mod_eq_of_lt (by omega)

/-- The slot after `a` (R167). -/
theorem succ_mod_eq {cap a : Nat} (ha : a < cap) : (a + 1) % cap = if a + 1 = cap then 0 else a + 1 := by
  split
  · rename_i h
    rw [h, Nat.mod_self]
  · exact Nat.mod_eq_of_lt (by omega)

/-- Used and free slots make up the capacity but one (R151). -/
theorem Ring.used_add_free {cap : Nat} (hc : cap ∈ capacities) (r : Ring) :
    r.used cap + r.free cap = cap - 1 := by
  have hlt := Ring.used_lt hc r
  unfold Ring.free
  omega

/-- Settles O18: the distance between the indices is 0 only at equal indices, and `CAP - 1` only just behind `rd`. -/
theorem occupancyLaw : Obligations.OccupancyLaw := by
  intro cap r hc hrd hwr
  have hused : r.used cap = (r.wr.toNat + cap - r.rd.toNat) % cap := by
    rw [Ring.used_eq hc, slot_of_lt hrd, slot_of_lt hwr]
  have hdist := hused.trans (ringDistance_eq hrd hwr)
  have hsum := Ring.used_add_free hc r
  refine ⟨hused, hsum, ?_, ?_⟩
  · rw [hdist, ← BitVec.toNat_inj]
    split <;> omega
  · rw [succ_mod_eq hwr]
    split at hdist <;> split <;> omega

/-! ### Gates (R155 to R159) -/

/-- The gates inside their bands keep the values `accept` and `rts` (R157, R158). -/
def State.KeepsInBand (t : State) (accept rts : Bool) : Prop :=
  (t.cfg.pktOut ≤ t.freeOut → t.freeOut ≤ t.cfg.pktOut + t.cfg.outHeadroom → t.usbAccept = accept) ∧
  (t.cfg.inStopFree ≤ t.freeIn → t.freeIn ≤ t.cfg.inResumeFree → t.rts = rts)

/-- Gates that are not written are kept, in the band and out of it. -/
theorem State.keepsInBand_self {t : State} {accept rts : Bool} (ha : t.usbAccept = accept) (hr : t.rts = rts) :
    t.KeepsInBand accept rts :=
  ⟨fun _ _ => ha, fun _ _ => hr⟩

/-- A gate that agrees with its free count is left alone by the hysteresis (R159). -/
theorem hyst_of_agrees {g : Bool} {f stop resume : Nat} (hstop : f < stop → g = false)
    (hresume : f > resume → g = true) : hyst g f stop resume = g := by
  rcases hyst_cases g f stop resume with ⟨hf, e⟩ | ⟨-, hf, e⟩ | ⟨-, -, e⟩
  · exact e.trans (hstop hf).symm
  · exact e.trans (hresume hf).symm
  · exact e

/-- Inside the band the hysteresis keeps the gate (R155). -/
theorem hyst_inside {g : Bool} {f stop resume : Nat} (h : stop ≤ f) (h' : f ≤ resume) :
    hyst g f stop resume = g :=
  hyst_of_agrees (by omega) (by omega)

/-- The bands' law speaks of the configuration, the rings and the two gates only. -/
theorem State.KeepsInBand.of_eq {u t : State} {accept rts : Bool} (h : u.KeepsInBand accept rts)
    (hcfg : t.cfg = u.cfg) (hin : t.rbIn = u.rbIn) (hout : t.rbOut = u.rbOut) (ha : t.usbAccept = u.usbAccept)
    (hr : t.rts = u.rts) : t.KeepsInBand accept rts := by
  unfold State.KeepsInBand State.freeIn State.freeOut
  rw [hcfg, hin, hout, ha, hr]
  exact h

/-- `gate_eval` keeps each gate inside its band (R156). -/
theorem State.gateEval_keepsInBand {s : State} {accept rts : Bool} (ha : s.usbAccept = accept)
    (hr : s.rts = rts) : s.gateEval.KeepsInBand accept rts :=
  ⟨fun h h' => (hyst_inside h h').trans ha, fun h h' => (hyst_inside h h').trans hr⟩

/-- Two empty rings have more free slots than either band (R8). -/
theorem State.keepsInBand_of_empty {t : State} (hi : t.usedIn = 0) (ho : t.usedOut = 0) {accept rts : Bool} :
    t.KeepsInBand accept rts := by
  obtain ⟨hout, -, hin⟩ := t.cfg.thresholds
  have hfo : t.freeOut = t.cfg.capOut - 1 := congrArg (t.cfg.capOut - 1 - ·) ho
  have hfi : t.freeIn = t.cfg.capIn - 1 := congrArg (t.cfg.capIn - 1 - ·) hi
  exact ⟨by omega, by omega⟩

theorem State.rxEvents_keepsInBand (s : State) (lvl : Bool) :
    (s.rxEvents lvl).KeepsInBand s.usbAccept s.rts := by
  rcases s.rxEvents_setRx_or_byte lvl with ⟨r, e⟩ | ⟨r, b, e⟩ <;> rw [e]
  · exact State.keepsInBand_self rfl rfl
  · exact State.gateEval_keepsInBand (by rw [State.pushIn_frame]; rfl) (by rw [State.pushIn_frame]; rfl)

theorem State.rxTick_keepsInBand (s : State) : s.rxTick.KeepsInBand s.usbAccept s.rts := by
  have hk := s.rxEvents_keepsInBand s.rxLevel
  unfold State.rxTick
  generalize s.rxEvents s.rxLevel = u at hk ⊢
  exact hk.of_eq rfl rfl rfl rfl rfl

theorem State.drainIn_keepsInBand (s : State) : s.drainIn.KeepsInBand s.usbAccept s.rts := by
  rw [State.drainIn_eq]
  exact State.gateEval_keepsInBand rfl rfl

/-- Every operation keeps each gate inside its band (R157, R158). -/
theorem exec_keepsInBand {i : Instr} {s t : State} (h : exec i s = .next t) :
    t.KeepsInBand s.usbAccept s.rts := by
  have hf := exec_frame h
  cases exec_effect h with
  | reset =>
    refine State.keepsInBand_of_empty ?_ ?_
    · rw [State.configure_eq]
      exact Ring.used_of_zero _ _
    · rw [State.configure_eq]
      exact Ring.used_of_zero _ _
  | poll hb =>
    have hk : s.txStart.gateEval.KeepsInBand s.usbAccept s.rts :=
      State.gateEval_keepsInBand (by rw [State.txStart_frame]) (by rw [State.txStart_frame])
    exact hk.of_eq rfl rfl rfl rfl rfl
  | pollHw flags rxdata hb =>
    have hk : ((s.hwReceive flags rxdata).hwTransmit flags).2.gateEval.KeepsInBand s.usbAccept s.rts :=
      State.gateEval_keepsInBand (by rw [State.hwTransmit_frame, State.hwReceive_frame])
        (by rw [State.hwTransmit_frame, State.hwReceive_frame])
    exact hk.of_eq rfl rfl rfl rfl rfl
  | usbOut data hl ha =>
    have hk : (data.foldl State.pushOut s).gateEval.KeepsInBand s.usbAccept s.rts :=
      State.gateEval_keepsInBand (by rw [State.foldl_pushOut_frame]) (by rw [State.foldl_pushOut_frame])
    exact hk.of_eq rfl rfl rfl rfl rfl
  | report hu => exact s.drainIn_keepsInBand.of_eq rfl rfl rfl rfl rfl
  | tick hb => exact s.txTick.rxTick_keepsInBand.of_eq rfl rfl rfl rfl rfl
  | pollUnavailable | pollHwUnavailable | usbOutTooLong | usbOutClosed | emptyReport | nothingToReport
    | tickUnavailable => exact State.keepsInBand_self rfl rfl
  | _ => exact State.keepsInBand_self (by rw [hf]) (by rw [hf])

/-- Settles O20: outside the bands the gates' law decides, inside them every operation keeps the gates. -/
theorem gatesFollowHysteresis : Obligations.GatesFollowHysteresis := by
  intro i s t h hg
  obtain ⟨hstop, hresume, hinStop, hinResume⟩ := exec_keeps_gatesOk h hg
  obtain ⟨hout, hin⟩ := exec_keepsInBand h
  rw [← exec_cfg h]
  exact ⟨hstop, hresume, hout, hinStop, fun _ => hinResume, hin⟩

/-! ### USB_OUT (R160, R161) -/

/-- An accepted packet (R160). -/
theorem exec_usbOut_accepted {s : State} {data : List Byte} (hl : data.length ≤ s.cfg.pktOut)
    (ha : s.usbAccept = true) :
    exec (.usbOut data) s = .next ((data.foldl State.pushOut s).gateEval.reply .ok []) :=
  (if_neg (by omega)).trans (if_pos ha)

/-- A packet that fits changes the outbound ring alone: the write index moves past it, and only the cells it moves
over are written (R152, R160). -/
theorem State.foldl_pushOut_of_fits (data : List Byte) {s : State} (hwr : s.rbOut.wr.toNat < s.cfg.capOut)
    (hfit : data.length ≤ s.freeOut) :
    ∃ r, data.foldl State.pushOut s = s.setOut r ∧ r.rd = s.rbOut.rd ∧
      r.wr.toNat = (s.rbOut.wr.toNat + data.length) % s.cfg.capOut ∧
      ∀ a, (∀ j < data.length, a ≠ (s.rbOut.wr.toNat + j) % s.cfg.capOut) →
        Memory.read r.mem a = Memory.read s.rbOut.mem a := by
  induction data generalizing s with
  | nil => exact ⟨s.rbOut, rfl, rfl, (Nat.mod_eq_of_lt hwr).symm, fun _ _ => rfl⟩
  | cons b rest ih =>
    rw [List.length_cons] at hfit
    rcases s.pushOut_cases b with ⟨-, q, hq, e⟩ | ⟨hz, -⟩
    · have hfree : (s.setOut q).freeOut = s.freeOut - 1 := Ring.enqueue_free s.cfg.capOut_mem hq
      obtain ⟨-, hqe⟩ := Ring.enqueue_eq_some.1 hq
      have hqwr : q.wr.toNat = (s.rbOut.wr.toNat + 1) % s.cfg.capOut := hqe ▸ advance_toNat s.cfg.capOut_mem _ _
      have hqlt : q.wr.toNat < s.cfg.capOut := hqe ▸ advance_lt s.cfg.capOut_mem _ _
      obtain ⟨r, hr, hrd, hrwr, hcells⟩ := ih (s := s.setOut q) hqlt (by omega)
      simp only [State.setOut_rbOut, State.setOut_cfg, hqwr, Nat.mod_add_mod, Nat.add_assoc, Nat.add_comm 1]
        at hrd hrwr hcells
      refine ⟨r, by rw [List.foldl_cons, e, hr]; rfl, hrd.trans (hqe ▸ rfl), hrwr, fun a ha => ?_⟩
      rw [hcells a fun j hj => ha (j + 1) (by simpa using hj), hqe]
      exact Memory.read_write_of_ne _ _ (by simpa [slot] using ha 0 (by simp))
    · omega

/-- A change of the outbound ring bears on the outbound gate alone (R155, R159). -/
theorem State.GatesOk.gateEval_setOut {s : State} (hg : s.GatesOk) (r : Ring) :
    (s.setOut r).gateEval = (s.setOut r).setGates (s.setOut r).gateEval.usbAccept s.rts := by
  obtain ⟨-, -, hstop, hresume⟩ := hg
  exact congrArg ((s.setOut r).setGates _) (hyst_of_agrees hstop hresume)

/-- Settles O21: an open gate means that the packet fits, so every byte is stored and no overflow recorded. -/
theorem usbOutStoresPacket : Obligations.UsbOutStoresPacket := by
  intro s data hs hg ha hl
  obtain ⟨-, -, -, hwr⟩ := hs.2
  have hfit := hl.trans (hg.pktOut_le_freeOut ha)
  have hwait := State.foldl_pushOut_waitingOut data hs hfit
  obtain ⟨r, hr, hrd, hrwr, hcells⟩ := State.foldl_pushOut_of_fits data hwr hfit
  refine ⟨_, exec_usbOut_accepted hl ha, hwait, ?_⟩
  rw [hr, hg.gateEval_setOut]
  exact ⟨hrwr, hrd, hcells, rfl⟩

/-! ### USB_IN_READY (R163 to R166) -/

theorem State.waitingIn_length (s : State) : s.waitingIn.length = s.usedIn := Ring.contents_length _ _

/-- A report carries all the bytes waiting, up to the packet size (R163). -/
theorem State.reportBytes_eq_take {s : State} (h : s.BuffersOk) :
    s.reportBytes = s.waitingIn.take s.cfg.pktIn := by
  rw [State.reportBytes_eq h, State.reportLen, ← State.waitingIn_length, min_comm, ← List.take_eq_take_min]

/-- What a data report leaves waiting (R164). -/
theorem State.drainIn_waitingIn_eq_drop {s : State} (h : s.BuffersOk) :
    s.drainIn.waitingIn = s.waitingIn.drop s.cfg.pktIn := by
  have hsplit := State.drainIn_waitingIn h
  rw [State.reportBytes_eq_take h] at hsplit
  exact List.append_cancel_left (hsplit.trans (List.take_append_drop _ _).symm)

/-- What a data report leaves in every cell of the inbound space: the wrapped tail of the drain behind the store,
every other cell as it was (R165). -/
theorem State.drainIn_read {s : State} (h : s.BuffersOk) (a : Nat) :
    Memory.read s.drainIn.rbIn.mem a =
      if s.cfg.capIn ≤ a ∧ a < s.rbIn.rd.toNat + s.reportLen then Memory.read s.rbIn.mem (a - s.cfg.capIn)
      else Memory.read s.rbIn.mem a := by
  obtain ⟨⟨hm, -, hrd, -⟩, -⟩ := h
  obtain ⟨-, -, hread⟩ := Ring.makeContiguous_spec s.cfg.capIn_mem hm s.reportLen_le.1
  rw [slot_of_lt hrd] at hread
  exact hread a

/-- A report is full exactly when a packet's worth of bytes waits (R166). -/
theorem State.drainIn_zlpPending (s : State) : s.drainIn.zlpPending = true ↔ s.cfg.pktIn ≤ s.usedIn := by
  rw [State.drainIn_eq]
  exact beq_iff_eq.trans min_eq_right_iff

/-- USB_IN_READY with data waiting (R164). -/
theorem exec_usbInReady_data {s : State} (hu : s.usedIn ≠ 0) :
    exec .usbInReady s = .next (s.drainIn.reply .ok s.reportBytes) :=
  if_pos (Nat.pos_of_ne_zero hu)

/-- USB_IN_READY with nothing waiting (R164, R166). -/
theorem exec_usbInReady_empty {s : State} (hu : s.usedIn = 0) :
    exec .usbInReady s = if s.zlpPending then (s.setZlp false).ok else s.nak :=
  if_neg (by omega)

/-- Settles O22: the copy of R165 lets the linear drain carry the oldest bytes, and writes the extension region
alone. -/
theorem reportTakesOldestBytes : Obligations.ReportTakesOldestBytes := by
  intro s hs hu
  refine ⟨_, exec_usbInReady_data hu, congrArg (some <| Answer.mk .ok ·) (State.reportBytes_eq_take hs),
    State.drainIn_waitingIn_eq_drop hs, advance_toNat s.cfg.capIn_mem _ _, rfl, s.drainIn_zlpPending,
    fun j hj => ?_, fun a ha => ?_, rfl⟩
  · have hread := State.drainIn_read hs (s.cfg.capIn + j)
    rwa [if_pos ⟨Nat.le_add_right _ _, hj⟩, Nat.add_sub_cancel_left] at hread
  · have hread := State.drainIn_read hs a
    rwa [if_neg (by rw [State.reportLen]; omega)] at hread

/-- Settles O23: the empty report clears `zlp_pending`, and the next USB_IN_READY finds nothing owed. -/
theorem emptyReportGoesOutOnce : Obligations.EmptyReportGoesOutOnce := by
  intro s hu hz
  refine ⟨_, ?_, rfl, ?_⟩
  · rw [exec_usbInReady_empty hu, if_pos hz]
    rfl
  · exact exec_usbInReady_empty hu

end Sys2Proof.Machine
end

section
/-! PROOFS. The compare value (O42), PINS (O48), POLL (O49, O50) and the two parts of a TICK (O51, O52). -/

namespace Sys2Proof.Machine

/-! ### The compare value (R190) -/

/-- The quotient's defining inequalities: within half a divisor of the exact one, a tie going up (R190). -/
theorem roundDiv_bounds (a : Nat) {b : Nat} (hb : 0 < b) :
    2 * roundDiv a b * b ≤ 2 * a + b ∧ 2 * a + b < 2 * (roundDiv a b + 1) * b := by
  have hle := Nat.div_mul_le_self (2 * a + b) (2 * b)
  have hlt := Nat.lt_mul_div_succ (2 * a + b) (show 0 < 2 * b by omega)
  rw [show (2 * a + b) / (2 * b) = roundDiv a b from rfl] at hle hlt
  constructor <;> nlinarith

/-- A larger divisor gives no larger quotient (R190). -/
theorem roundDiv_antitone (n : Nat) {a b : Nat} (ha : 0 < a) (hab : a ≤ b) : roundDiv n b ≤ roundDiv n a := by
  obtain ⟨hb, -⟩ := roundDiv_bounds n (ha.trans_le hab)
  obtain ⟨-, ha'⟩ := roundDiv_bounds n ha
  by_contra hlt
  obtain ⟨d, hd⟩ := Nat.exists_eq_add_of_lt (not_le.1 hlt)
  rw [hd] at hb
  nlinarith [Nat.mul_le_mul_left (2 * (roundDiv n a + d) + 1) hab]

theorem quantize_of_pos (c : Cfg) {baud : Nat} (h : 0 < baud) :
    (quantize c baud).toNat = min (roundDiv c.timerClock baud - 1) c.ocrMax := by
  rw [quantize_toNat, quantizeNat, if_neg (by omega)]

/-- Settles O42: `q` is the rounded quotient, which falls as the rate rises. -/
theorem quantizeRoundsToNearest : Obligations.QuantizeRoundsToNearest := by
  intro c
  refine ⟨quantize_toNat c 0, fun baud hpos => ?_, fun a b ha hab => ?_⟩
  · obtain ⟨hle, hlt⟩ := roundDiv_bounds c.timerClock hpos
    exact ⟨_, hle, hlt, quantize_of_pos c hpos⟩
  · have hq := roundDiv_antitone c.timerClock ha hab
    rw [quantize_of_pos c ha, quantize_of_pos c (ha.trans_le hab)]
    omega

/-! ### PINS (R199) -/

theorem pinsRxd_eq (p : Byte) : pinsRxd p = decide (p.toNat % 2 = 1) := Nat.testBit_zero _

theorem pinsCts_eq (p : Byte) : pinsCts p = decide (p.toNat / 2 % 2 = 1) :=
  (Nat.testBit_succ _ 0).trans (Nat.testBit_zero _)

/-- Settles O48. -/
theorem pinsLatchesLevels : Obligations.PinsLatchesLevels := by
  intro s p
  rw [← pinsRxd_eq, ← pinsCts_eq]
  rfl

/-! ### POLL (R192, R193) -/

theorem exec_poll {s : State} (hb : s.cfg.backend = .software) :
    exec .poll s = .next (s.txStart.gateEval.reply .ok []) := by
  simp only [exec, execPoll, hb]
  rfl

/-- Gates that agree with the free counts stay as they are (R155, R159). -/
theorem State.GatesOk.gateEval_self {s : State} (h : s.GatesOk) : s.gateEval = s := by
  obtain ⟨ho, ho', hi, hi'⟩ := h
  rw [State.gateEval_eq, hyst_of_agrees ho ho', hyst_of_agrees hi hi']

theorem State.txPermitted_iff (s : State) : s.txPermitted = true ↔ s.cfg.swTxCtsGate = false ∨ s.cts = true := by
  simp [State.txPermitted]

/-- Settles O50: `tx_start` finds one of its conditions unmet, and the gates have nothing to follow. -/
theorem redundantPollChangesNothing : Obligations.RedundantPollChangesNothing := by
  intro s hb hg hwhy
  rcases s.txStart_cases with ⟨hi, hp, hu, -⟩ | ⟨-, e⟩
  · rw [State.txPermitted_iff] at hp
    simp_all
  · rw [exec_poll hb, e, hg.gateEval_self]
    rfl

/-- The data bits of a frame, lowest first from bit 8 down (R194). -/
theorem frame_getLsbD_data (b : Byte) {i : Nat} (h : i < 8) : (frame b).getLsbD (8 - i) = b.getLsbD i := by
  rw [frame_getLsbD b _ (by omega), if_neg (by omega), if_neg (by omega), Nat.sub_sub_self (by omega)]

/-- A POLL that starts a byte takes the oldest one, loads its frame and evaluates the outbound gate (R193). -/
theorem exec_poll_loads {s : State} (hb : s.cfg.backend = .software) (hg : s.GatesOk) (hi : s.tx.idle = true)
    (hu : s.usedOut ≠ 0) (hp : s.cfg.swTxCtsGate = false ∨ s.cts = true) :
    ∃ (t : State) (b : Byte), exec .poll s = .next t ∧ s.waitingOut = b :: t.waitingOut ∧
      t = { s with
        rbOut := ⟨s.rbOut.mem, advance s.cfg.capOut s.rbOut.rd 1, s.rbOut.wr⟩, tx := s.tx.load s.ocr b,
        usbAccept := t.usbAccept, answer := some ⟨.ok, []⟩ } := by
  rcases s.txStart_cases with ⟨-, -, -, b, r, hd, e⟩ | ⟨hno, -⟩
  · refine ⟨_, b, exec_poll hb, ?_, ?_⟩ <;> rw [e]
    · exact Ring.dequeue_contents s.cfg.capOut_mem hd
    · obtain ⟨-, -, rfl⟩ := Ring.dequeue_eq_some.1 hd
      have hgates : ((s.setOut ⟨s.rbOut.mem, advance s.cfg.capOut s.rbOut.rd 1, s.rbOut.wr⟩).setTx
          (s.tx.load s.ocr b)).gateEval.rts = s.rts := hyst_of_agrees hg.2.2.1 hg.2.2.2
      exact congrArg (fun g => State.reply (State.setGates _ _ g) .ok []) hgates
  · rw [← State.txPermitted_iff] at hp
    simp_all

/-- Settles O49. -/
theorem pollStartsByte : Obligations.PollStartsByte := by
  intro s hb _ hg hi hu hp
  obtain ⟨t, b, hexec, hwait, ht⟩ := exec_poll_loads hb hg hi hu hp
  refine ⟨t, b, hexec, hwait, ?_⟩
  rw [ht]
  exact ⟨rfl, advance_toNat s.cfg.capOut_mem _ _, frame_getLsbD b 9 (by decide), frame_getLsbD b 0 (by decide),
    fun _ => frame_getLsbD_data b, rfl, bitPeriod_toNat _, rfl, rfl, rfl⟩

/-! ### TICK (R200) -/

theorem exec_tick {s : State} (hb : s.cfg.backend = .software) :
    exec .tick s = .next (s.txTick.rxTick.reply .ok []) := by
  simp only [exec, execTick, hb]
  rfl

/-- What the receiver's part of a TICK leaves alone (R200). -/
theorem State.rxTick_frame (s : State) :
    s.rxTick = { s with
      rx := s.rxTick.rx
      rbIn := { s.rxTick.rbIn with rd := s.rbIn.rd }
      usbAccept := s.rxTick.usbAccept
      rts := s.rxTick.rts } := by
  unfold State.rxTick
  rw [State.rxEvents_frame]
  rfl

/-- A TXBIT moves every bit of the frame one place up (R196). -/
theorem shiftOut_getLsbD_succ (f : BitVec 10) {i : Nat} (h : i < 9) :
    (f <<< 1 ||| 1).getLsbD (i + 1) = f.getLsbD i := by
  simp [BitVec.getLsbD_shiftLeft]
  omega

/-- A TXBIT shifts a 1 in (R196). -/
theorem shiftOut_getLsbD_zero (f : BitVec 10) : (f <<< 1 ||| 1).getLsbD 0 = true := by simp

/-- Settles O51. -/
theorem tickRunsTransmitter : Obligations.TickRunsTransmitter := by
  intro s hb
  have htx : s.txTick.rxTick.tx = s.tx.tick s.cfg.invert s.ocr := by rw [State.rxTick_frame]; rfl
  refine ⟨_, exec_tick hb, ?_⟩
  rw [State.reply_tx, htx]
  rcases s.tx.tick_cases s.cfg.invert s.ocr with ⟨hl, e⟩ | ⟨hl, hc, e⟩ | ⟨hl, hc, e⟩ | ⟨hl, hc, e⟩ <;> rw [e]
  · exact ⟨fun _ => rfl, fun h => absurd hl h, fun h => by simp [hl] at h, fun h => by simp [hl] at h⟩
  · exact ⟨fun h => absurd h hl, fun _ _ => rfl, fun _ h => absurd h hc, fun _ h => absurd h hc⟩
  · have hl0 : s.tx.left ≠ 0 := by bv_omega
    refine ⟨fun h => absurd h hl0, fun _ h => by simp [hc] at h, fun _ _ => ⟨rfl, fun i hi => ?_, shiftOut_getLsbD_zero _, ?_,
      bitPeriod_toNat _, rfl⟩, fun h => by simp [h] at hl⟩
    · exact shiftOut_getLsbD_succ _ hi
    · show (s.tx.left - 1).toNat = _
      bv_omega
  · exact ⟨fun h => by simp [h] at hl, fun _ h => by simp [hc] at h, fun h => by simp [hl] at h, fun _ _ => rfl⟩

/-- A completed byte bears on the inbound ring alone (R209). -/
theorem State.pushIn_setRx (s : State) (r : Rx) (b : Byte) : (s.setRx r).pushIn b = (s.pushIn b).setRx r := by
  unfold State.pushIn
  simp only [State.setRx_rbIn, State.setRx_cfg]
  cases s.rbIn.enqueue s.cfg.capIn b <;> rfl

/-- An armed receiver that sees no edge follows the line (R204). -/
theorem State.rxTick_of_quiet {s : State} (hl : s.rx.left = 0) (hq : ¬ (s.rx.prev = true ∧ s.rxLevel = false)) :
    s.rxTick = s.setRx { s.rx with prev := s.rxLevel } := by
  have hedge : ¬ (s.rx.prev && !s.rxLevel) = true := by simpa using hq
  rw [State.rxTick, State.rxEvents, if_pos hl, if_neg hedge]
  rfl

/-- An armed receiver that sees the line fall starts a byte (R205). -/
theorem State.rxTick_of_edge {s : State} (hl : s.rx.left = 0) (hp : s.rx.prev = true) (hlow : s.rxLevel = false) :
    s.rxTick = s.setRx { s.rx with left := 8, cnt := s.first, prev := s.rxLevel } := by
  have hedge : (s.rx.prev && !s.rxLevel) = true := by rw [hp, hlow]; rfl
  rw [State.rxTick, State.rxEvents, if_pos hl, if_pos hedge]
  rfl

/-- Between two samples the receiver counts (R200). -/
theorem State.rxTick_of_count {s : State} (hl : s.rx.left ≠ 0) (hc : s.rx.cnt ≠ 1) :
    s.rxTick = s.setRx { s.rx with cnt := s.rx.cnt - 1, prev := s.rxLevel } := by
  rcases s.rxEvents_cases s.rxLevel with ⟨h, -⟩ | ⟨h, -⟩ | ⟨-, -, e⟩ | ⟨-, -, h, -⟩ | ⟨-, h, -⟩
  · exact absurd h hl
  · exact absurd h hl
  · rw [State.rxTick, e]
    rfl
  · exact absurd h hc
  · exact absurd h hc

/-- A sample that does not complete the byte (R209). -/
theorem State.rxTick_of_sample {s : State} (hl : s.rx.left ≠ 0) (hl1 : s.rx.left ≠ 1) (hc : s.rx.cnt = 1) :
    s.rxTick = s.setRx ⟨s.rx.left - 1, bitPeriod s.ocr, shiftIn s.rxLevel s.rx.shift, s.rxLevel⟩ := by
  rcases s.rxEvents_cases s.rxLevel with ⟨h, -⟩ | ⟨h, -⟩ | ⟨-, h, -⟩ | ⟨-, -, -, e⟩ | ⟨h, -⟩
  · exact absurd h hl
  · exact absurd h hl
  · exact absurd hc h
  · rw [State.rxTick, e]
    rfl
  · exact absurd h hl1

/-- The sample that completes the byte (R209). -/
theorem State.rxTick_of_last_sample {s : State} (hl : s.rx.left = 1) (hc : s.rx.cnt = 1) :
    s.rxTick = (s.pushIn (shiftIn s.rxLevel s.rx.shift)).gateEval.setRx
      ⟨0, 0, shiftIn s.rxLevel s.rx.shift, s.rxLevel⟩ := by
  rcases s.rxEvents_cases s.rxLevel with ⟨h, -⟩ | ⟨h, -⟩ | ⟨-, h, -⟩ | ⟨-, h, -⟩ | ⟨-, -, e⟩
  · simp [hl] at h
  · simp [hl] at h
  · exact absurd hc h
  · exact absurd hl h
  · rw [State.rxTick, e, State.pushIn_setRx]
    rfl

/-- All a completed byte does to the bytes waiting (R209, R162). -/
theorem State.pushIn_waitingIn_eq {s : State} (b : Byte) (h : s.BuffersOk) :
    (s.pushIn b).waitingIn = s.waitingIn ++ (if s.freeIn = 0 then [] else [b]) := by
  rcases s.pushIn_cases b with ⟨hf, r, hq, e⟩ | ⟨hf, e⟩ <;> rw [e]
  · rw [if_neg hf]
    exact Ring.enqueue_contents s.cfg.capIn_mem h.1.1 hq
  · rw [if_pos hf, List.append_nil]

/-- A completed byte for which there is room is stored in the cell at the write index (R152, R209). -/
theorem State.pushIn_of_room {s : State} (b : Byte) (h : s.freeIn ≠ 0) :
    s.pushIn b = s.setIn ⟨Memory.write s.rbIn.mem (slot s.cfg.capIn s.rbIn.wr) b, s.rbIn.rd,
      advance s.cfg.capIn s.rbIn.wr 1⟩ := by
  rcases s.pushIn_cases b with ⟨-, r, hq, e⟩ | ⟨hf, -⟩
  · rw [e, (Ring.enqueue_eq_some.1 hq).2]
  · exact absurd hf h

theorem State.pushIn_of_full {s : State} (b : Byte) (h : s.freeIn = 0) : s.pushIn b = s :=
  (s.pushIn_cases b).elim (fun hr => absurd h hr.1) And.right

/-- A change of the inbound ring bears on the inbound gate alone (R155, R159). -/
theorem State.GatesOk.gateEval_setIn {s : State} (hg : s.GatesOk) (r : Ring) :
    (s.setIn r).gateEval = (s.setIn r).setGates s.usbAccept (s.setIn r).gateEval.rts := by
  obtain ⟨hstop, hresume, -⟩ := hg
  exact congrArg ((s.setIn r).setGates · _) (hyst_of_agrees hstop hresume)

/-- Under the gates' law the receiver's part of a TICK leaves the outbound gate alone. -/
theorem State.GatesOk.rxTick_frame {s : State} (hg : s.GatesOk) :
    s.rxTick = { s with rx := s.rxTick.rx, rbIn := s.rxTick.rbIn, rts := s.rxTick.rts } := by
  unfold State.rxTick
  rcases s.rxEvents_setRx_or_byte s.rxLevel with ⟨r, e⟩ | ⟨r, b, e⟩ <;> rw [e]
  · rfl
  · have hg' : (s.setRx r).GatesOk := hg
    rw [State.pushIn_frame, hg'.gateEval_setIn]
    rfl

/-- Only the sample that completes a byte touches store and gate (R209). -/
theorem State.rxTick_store {s : State} (h : ¬ (s.rx.left = 1 ∧ s.rx.cnt = 1)) :
    s.rxTick.rbIn = s.rbIn ∧ s.rxTick.rts = s.rts := by
  unfold State.rxTick
  rcases s.rxEvents_cases s.rxLevel with ⟨-, -, e⟩ | ⟨-, -, -, e⟩ | ⟨-, -, e⟩ | ⟨-, -, -, e⟩ | ⟨hl, hc, -⟩
  · rw [e]; exact ⟨rfl, rfl⟩
  · rw [e]; exact ⟨rfl, rfl⟩
  · rw [e]; exact ⟨rfl, rfl⟩
  · rw [e]; exact ⟨rfl, rfl⟩
  · exact absurd ⟨hl, hc⟩ h

/-- What a sample does to the receiver, whether or not it completes the byte (R208, R209). -/
theorem State.rxTick_of_due {s : State} (hl : s.rx.left ≠ 0) (hc : s.rx.cnt = 1) :
    s.rxTick.rx = ⟨s.rx.left - 1, if s.rx.left = 1 then 0 else bitPeriod s.ocr,
      shiftIn s.rxLevel s.rx.shift, s.rxLevel⟩ := by
  by_cases hl1 : s.rx.left = 1
  · rw [State.rxTick_of_last_sample hl1 hc, if_pos hl1, hl1]
    rfl
  · rw [State.rxTick_of_sample hl hl1 hc, if_neg hl1]
    rfl

/-- Settles O52: the clauses are the cases of the receiver, which the transmitter's part does not bear on. -/
theorem tickRunsReceiver : Obligations.TickRunsReceiver := by
  intro s hb hs hg
  have hg' : s.txTick.GatesOk := hg
  refine ⟨_, exec_tick hb, ?_, rfl, State.rxTick_store (s := s.txTick), fun hl hq => ?_, fun hl hp hlow => ?_,
    fun hl hc => ?_, fun hl hc => ?_, fun hl hc hf => ?_, fun hl hc hf => ?_⟩
  · rw [hg'.rxTick_frame]
    rfl
  · rw [State.reply_rx, State.rxTick_of_quiet (s := s.txTick) hl hq]
    rfl
  · rw [State.reply_rx, State.rxTick_of_edge (s := s.txTick) hl hp hlow]
    rfl
  · have hc' : s.rx.cnt ≠ 1 := fun h => by simp [h] at hc
    rw [State.reply_rx, State.rxTick_of_count (s := s.txTick) hl hc']
    rfl
  · rw [State.reply_rx, State.rxTick_of_due (s := s.txTick) hl hc]
    refine ⟨shiftIn_getLsbD _ _ 7 (by decide), fun i hi => ?_, ?_, ?_⟩
    · exact (shiftIn_getLsbD _ _ i (by omega)).trans (if_neg (by omega))
    · show (s.rx.left - 1).toNat = _
      bv_omega
    · show (if s.rx.left = 1 then (0 : BitVec 17) else bitPeriod s.ocr).toNat = _
      split
      · rfl
      · exact bitPeriod_toNat _
  · rw [State.reply_rbIn, State.rxTick_of_last_sample (s := s.txTick) hl hc,
      State.pushIn_of_full (s := s.txTick) _ hf]
    rfl
  · have hw := State.pushIn_waitingIn_eq (s := s.txTick) (shiftIn s.txTick.rxLevel s.txTick.rx.shift) hs
    obtain ⟨-, -, -, hwr⟩ := hs.1
    rw [State.rxTick_of_last_sample (s := s.txTick) hl hc]
    refine ⟨hw.trans (congrArg _ (if_neg hf)), ?_⟩
    rw [State.pushIn_of_room (s := s.txTick) _ hf]
    refine ⟨rfl, advance_toNat s.cfg.capIn_mem _ _, fun a ha => ?_⟩
    exact Memory.read_write_of_ne _ _ fun h => ha (h.trans (slot_of_lt hwr))

end Sys2Proof.Machine
end

section
/-! PROOFS. The transmit schedule (O53): a byte in flight counts down its bits, and no operation but TICK and those that
reconfigure bears on it. -/

namespace Sys2Proof.Machine

/-! ### A byte in flight (R194 to R196) -/

/-- The frame of `b` after `k` TXBIT events (R196). -/
def frameAfter (b : Byte) : Nat → BitVec 10
  | 0 => frame b
  | k + 1 => frameAfter b k <<< 1 ||| 1

/-- The line's logical level once `k` bits of `b` are driven: idle, start bit, data bits lowest first, stop bit. -/
def bitLevel (b : Byte) (k : Nat) : Bool := if k = 0 then true else (frame b).getLsbD (10 - k)

/-- The transmitter with `k` bits of `b` driven and `c` ticks to the next TXBIT, on a line that was at `line` when the
byte was loaded. -/
def Tx.sending (line invert : Bool) (b : Byte) (k : Nat) (c : BitVec 17) : Tx where
  idle := false
  frame := frameAfter b k
  left := BitVec.ofNat 4 (11 - k)
  cnt := c
  txd := if k = 0 then line else bitLevel b k ^^ invert

theorem frameAfter_top (b : Byte) (k i : Nat) (h : k ≤ i) (hi : i < 10) :
    (frameAfter b k).getLsbD i = (frame b).getLsbD (i - k) := by
  induction k generalizing i with
  | zero => rfl
  | succ k ih =>
    obtain ⟨i, rfl⟩ : ∃ j, i = j + 1 := ⟨i - 1, by omega⟩
    rw [frameAfter, shiftOut_getLsbD_succ _ (by omega), ih i (by omega) (by omega), Nat.add_sub_add_right]

/-- The next bit to drive (R194, R196). -/
theorem frameAfter_bit (b : Byte) {k : Nat} (h : k < 10) : (frameAfter b k).getLsbD 9 = bitLevel b (k + 1) :=
  (frameAfter_top b k 9 (by omega) (by omega)).trans (congrArg _ (by omega))

theorem bitLevel_start (b : Byte) : bitLevel b 1 = false := frame_getLsbD b 9 (by decide)

theorem bitLevel_data (b : Byte) {i : Nat} (h : i < 8) : bitLevel b (i + 2) = b.getLsbD i := by
  rw [bitLevel, if_neg (by omega), show 10 - (i + 2) = 8 - i by omega, frame_getLsbD_data b h]

theorem bitLevel_stop (b : Byte) {k : Nat} (h : 10 ≤ k) : bitLevel b k = true := by
  rw [bitLevel, if_neg (by omega), show 10 - k = 0 by omega]
  exact frame_getLsbD b 0 (by decide)

/-- `n` ticks into a byte of bit period `T`: `k` bits driven, `c` ticks to the end of the period (R195). -/
def Tx.SendingAt (line invert : Bool) (b : Byte) (T n : Nat) (t : Tx) : Prop :=
  ∃ (k : Nat) (c : BitVec 17), t = Tx.sending line invert b k c ∧ k < 11 ∧ 1 ≤ c.toNat ∧ c.toNat ≤ T ∧
    n + c.toNat = (k + 1) * T

section
variable {line invert : Bool} {b : Byte}

theorem Tx.sending_left {k : Nat} {c : BitVec 17} (h : k < 11) :
    (Tx.sending line invert b k c).left.toNat = 11 - k := by
  simp only [Tx.sending, BitVec.toNat_ofNat]
  omega

/-- Inside a bit the transmitter counts (R200). -/
theorem Tx.sending_tick_count (ocr : BitVec 16) {k : Nat} {c : BitVec 17} (hk : k < 11) (hc : c ≠ 1) :
    (Tx.sending line invert b k c).tick invert ocr = Tx.sending line invert b k (c - 1) := by
  have hleft := Tx.sending_left (line := line) (invert := invert) (b := b) (c := c) hk
  rcases (Tx.sending line invert b k c).tick_cases invert ocr with ⟨hl, -⟩ | ⟨-, -, e⟩ | ⟨-, h, -⟩ | ⟨-, h, -⟩
  · rw [hl] at hleft
    bv_omega
  · exact e
  · exact absurd h hc
  · exact absurd h hc

/-- At its end the next bit is driven (R196). -/
theorem Tx.sending_tick_bit (ocr : BitVec 16) {k : Nat} (hk : k < 10) :
    (Tx.sending line invert b k 1).tick invert ocr = Tx.sending line invert b (k + 1) (bitPeriod ocr) := by
  have hleft := Tx.sending_left (line := line) (invert := invert) (b := b) (c := 1) (show k < 11 by omega)
  rcases (Tx.sending line invert b k 1).tick_cases invert ocr with ⟨hl, -⟩ | ⟨-, h, -⟩ | ⟨-, -, e⟩ | ⟨hl, -⟩
  · rw [hl] at hleft
    bv_omega
  · exact absurd rfl h
  · have hl : (Tx.sending line invert b k 1).left - 1 = BitVec.ofNat 4 (11 - (k + 1)) := by
      rw [← BitVec.toNat_inj, BitVec.toNat_ofNat]
      bv_omega
    rw [e, hl, show (Tx.sending line invert b k 1).frame.getLsbD 9 = bitLevel b (k + 1) from frameAfter_bit b hk]
    rfl
  · rw [hl] at hleft
    bv_omega

/-- One period after the stop bit the transmitter falls idle (R196). -/
theorem Tx.sending_tick_end (ocr : BitVec 16) :
    (Tx.sending line invert b 10 1).tick invert ocr = ⟨true, frameAfter b 10, 0, 0, true ^^ invert⟩ := by
  have hline : (Tx.sending line invert b 10 1).txd = (true ^^ invert) :=
    congrArg (· ^^ invert) (bitLevel_stop b le_rfl)
  rcases (Tx.sending line invert b 10 1).tick_cases invert ocr with ⟨h, -⟩ | ⟨-, h, -⟩ | ⟨h, -⟩ | ⟨-, -, e⟩
  · exact absurd h (by simp [Tx.sending])
  · exact absurd rfl h
  · exact absurd h (by simp [Tx.sending])
  · rw [e, hline]
    rfl

/-- The transmitter as loaded (R193). -/
theorem Tx.sendingAt_zero {t : Tx} {T : Nat} (hT : 0 < T) (hframe : t.frame = Machine.frame b) (hleft : t.left = 11)
    (hcnt : t.cnt.toNat = T) (hidle : t.idle = false) : Tx.SendingAt t.txd invert b T 0 t := by
  refine ⟨0, t.cnt, ?_, by decide, by omega, by omega, by omega⟩
  obtain ⟨idle, f, left, cnt, txd⟩ := t
  cases hframe; cases hleft; cases hidle
  rfl

/-- The number of bits driven and the ticks to go are quotient and remainder of the ticks passed. -/
theorem Tx.SendingAt.eq_sending {t : Tx} {T n : Nat} (h : Tx.SendingAt line invert b T n t) :
    ∃ c : BitVec 17, t = Tx.sending line invert b (n / T) c ∧ n / T < 11 ∧ c.toNat = T - n % T := by
  obtain ⟨k, c, rfl, hk, hc, hcT, hn⟩ := h
  obtain ⟨r, hr⟩ := Nat.exists_eq_add_of_le' hcT
  have hnk : n = r + T * k := by
    rw [Nat.succ_mul, Nat.mul_comm] at hn
    omega
  have hdiv : n / T = k := by
    rw [hnk, Nat.add_mul_div_left _ _ (by omega), Nat.div_eq_of_lt (by omega), Nat.zero_add]
  have hmod : n % T = r := by rw [hnk, Nat.add_mul_mod_self_left, Nat.mod_eq_of_lt (by omega)]
  exact ⟨c, by rw [hdiv], by omega, by omega⟩

/-- One tick of a byte in flight: the next tick of the schedule, or the end of the stop bit (R196, R200). -/
theorem Tx.SendingAt.tick {t : Tx} {ocr : BitVec 16} {T n : Nat} (h : Tx.SendingAt line invert b T n t)
    (hT : T = ocr.toNat + 1) :
    (n + 1 < 11 * T ∧ Tx.SendingAt line invert b T (n + 1) (t.tick invert ocr)) ∨
    (n + 1 = 11 * T ∧ t.tick invert ocr = ⟨true, frameAfter b 10, 0, 0, true ^^ invert⟩) := by
  obtain ⟨k, c, rfl, hk, hc, hcT, hn⟩ := h
  have hend : (k + 1) * T ≤ 11 * T := Nat.mul_le_mul_right T hk
  by_cases hc1 : c = 1
  · subst hc1
    obtain hk10 | rfl : k < 10 ∨ k = 10 := by omega
    · have hp := bitPeriod_toNat ocr
      have hlt : (k + 1 + 1) * T ≤ 11 * T := Nat.mul_le_mul_right T (by omega)
      rw [Tx.sending_tick_bit ocr hk10]
      rw [Nat.succ_mul (k + 1)] at hlt
      refine .inl ⟨by bv_omega, k + 1, _, rfl, by omega, by omega, by omega, ?_⟩
      rw [Nat.succ_mul (k + 1)]
      bv_omega
    · exact .inr ⟨hn, Tx.sending_tick_end ocr⟩
  · have hc' : (c - 1).toNat + 1 = c.toNat ∧ 1 < c.toNat := by bv_omega
    rw [Tx.sending_tick_count ocr hk hc1]
    exact .inl ⟨by omega, k, c - 1, rfl, hk, by omega, by omega, by omega⟩

end

/-! ### Other operations in between (R195) -/

/-- What an operation does to the transmitter while a byte is in flight, but for those that reconfigure (R193, R200,
R211). -/
theorem exec_tx_of_sending {i : Instr} {s t : State} (h : exec i s = .next t) (hb : s.cfg.backend = .software)
    (hi : i ≠ .reset ∧ i ≠ .busReset ∧ ∀ l, i ≠ .setLineCoding l) (hidle : s.tx.idle = false) :
    t.ocr = s.ocr ∧ t.tx = if i = .tick then s.tx.tick s.cfg.invert s.ocr else s.tx := by
  obtain ⟨hreset, hbus, hlc⟩ := hi
  have hf := exec_frame h
  cases exec_effect h with
  | reset => exact absurd rfl hreset
  | startPass | restartPass => exact absurd rfl hbus
  | setLineCoding l => exact absurd rfl (hlc l)
  | poll hb =>
    rcases s.txStart_cases with ⟨hi, -⟩ | ⟨-, e⟩
    · simp [hidle] at hi
    · rw [e]
      exact ⟨rfl, rfl⟩
  | tick hb =>
    rw [State.rxTick_frame]
    exact ⟨rfl, rfl⟩
  | tickUnavailable hb' => simp [hb] at hb'
  | _ => rw [hf]; exact ⟨rfl, rfl⟩

/-- A byte in flight after a run, as many ticks further as the run has TICKs (R195). -/
theorem runOps_sendingAt {line : Bool} {b : Byte} {T : Nat} (is : List Instr) {s t : State} {n : Nat}
    (hb : s.cfg.backend = .software) (hT : T = s.ocr.toNat + 1)
    (his : ∀ i ∈ is, i ≠ .reset ∧ i ≠ .busReset ∧ ∀ l, i ≠ .setLineCoding l) (h : runOps is s = some t)
    (hn : n + is.count .tick < 11 * T) (hs : Tx.SendingAt line s.cfg.invert b T n s.tx) :
    t.cfg = s.cfg ∧ t.ocr = s.ocr ∧ Tx.SendingAt line s.cfg.invert b T (n + is.count .tick) t.tx := by
  induction is generalizing s n with
  | nil =>
    cases h
    exact ⟨rfl, rfl, hs⟩
  | cons i is ih =>
    obtain ⟨u, hu, hrun⟩ := runOps_cons h
    obtain ⟨hi, hrest⟩ := List.forall_mem_cons.1 his
    have hidle : s.tx.idle = false := by
      obtain ⟨c, e, -⟩ := hs.eq_sending
      rw [e]
      rfl
    have hcfg := exec_cfg hu
    obtain ⟨hocr, htx⟩ := exec_tx_of_sending hu hb hi hidle
    have hstep : ∃ m, m + is.count .tick = n + (i :: is).count .tick ∧
        Tx.SendingAt line s.cfg.invert b T m u.tx := by
      by_cases htick : i = .tick
      · subst htick
        rw [List.count_cons_self] at hn ⊢
        rw [htx, if_pos rfl]
        rcases hs.tick hT with ⟨-, hs'⟩ | ⟨hend, -⟩
        · exact ⟨n + 1, by omega, hs'⟩
        · omega
      · rw [htx, if_neg htick, List.count_cons_of_ne htick]
        exact ⟨n, rfl, hs⟩
    obtain ⟨m, hm, hsend⟩ := hstep
    rw [← hm] at hn ⊢
    rw [← hcfg] at hb hsend ⊢
    rw [← hocr] at hT ⊢
    exact ih hb hT hrest hrun hn hsend

/-- Settles O53: the run keeps the byte on its schedule, whose position is read off the ticks passed. -/
theorem transmitSchedule : Obligations.TransmitSchedule := by
  intro is s t b T n hb hT hframe hleft hcnt hidle his hrun hcount hn
  subst hcount
  have h0 := Tx.sendingAt_zero (invert := s.cfg.invert) (by omega) hframe hleft hcnt hidle
  obtain ⟨hcfg, hocr, hsend⟩ := runOps_sendingAt is hb hT his hrun (by omega) h0
  rw [Nat.zero_add] at hsend
  obtain ⟨c, e, hk, hc⟩ := hsend.eq_sending
  have hline : ∀ k, k ≠ 0 → is.count .tick / T = k → t.tx.txd = (bitLevel b k ^^ s.cfg.invert) := by
    rintro k hk0 rfl
    rw [e]
    exact if_neg hk0
  refine ⟨?_, ?_, ?_, fun hk0 => ?_, fun hk1 => ?_, fun hlo hhi => ?_, fun hk10 => ?_, fun hend => ?_⟩
  · rw [e]
    exact Tx.sending_left hk
  · rw [e]
    exact hc
  · rw [e]
    rfl
  · rw [e]
    exact if_pos hk0
  · rw [hline 1 (by decide) hk1, bitLevel_start]
  · rw [hline _ (by omega) rfl, ← bitLevel_data b (by omega), Nat.sub_add_cancel hlo]
  · rw [hline 10 (by decide) hk10, bitLevel_stop b le_rfl]
  · rw [← hcfg] at hb
    refine ⟨_, exec_tick hb, ?_⟩
    rw [State.rxTick_frame]
    rcases hsend.tick hT with ⟨hlt, -⟩ | ⟨-, hidle'⟩
    · omega
    · have htx : t.txTick.tx = ⟨true, frameAfter b 10, 0, 0, true ^^ s.cfg.invert⟩ := by
        rw [← hidle', ← hcfg, ← hocr]
        rfl
      show t.txTick.tx.idle = true ∧ t.txTick.tx.left = 0 ∧ t.txTick.tx.cnt = 0 ∧
        t.txTick.tx.txd = (true ^^ s.cfg.invert)
      rw [htx]
      exact ⟨rfl, rfl, rfl, rfl⟩

end Sys2Proof.Machine
end

section
/-! PROOFS. The receiver on a played line (O54): tick by tick, the line brings the samples still to take. -/

namespace Sys2Proof.Machine

/-! ### Playing a line into the receive pin (R108) -/

/-- The state in which the receiver's part of a TICK finds the block, PINS having latched the logical level `lvl` and
kept clear-to-send, and the transmitter's part having run (R197, R201). -/
def State.withLevel (s : State) (lvl : Bool) : State :=
  ((s.setPins (lvl ^^ s.cfg.invert) s.cts).reply .ok []).txTick

/-- PINS with a logical level of the receive line, then TICK (R108). -/
def State.clock (s : State) (lvl : Bool) : State := (s.withLevel lvl).rxTick.reply .ok []

/-- The levels of a line, one TICK each (R108). -/
def State.play (s : State) (levels : List Bool) : State := levels.foldl State.clock s

@[simp] theorem State.withLevel_rxLevel (s : State) (lvl : Bool) : (s.withLevel lvl).rxLevel = lvl := by
  show ((lvl ^^ s.cfg.invert) ^^ s.cfg.invert) = lvl
  simp

section
variable (s : State) (lvl : Bool)
@[simp] theorem State.clock_cfg : (s.clock lvl).cfg = s.cfg := by rw [State.clock, State.rxTick_frame]; rfl
@[simp] theorem State.clock_cts : (s.clock lvl).cts = s.cts := by rw [State.clock, State.rxTick_frame]; rfl
@[simp] theorem State.clock_ocr : (s.clock lvl).ocr = s.ocr := by rw [State.clock, State.rxTick_frame]; rfl
@[simp] theorem State.clock_first : (s.clock lvl).first = s.first := by rw [State.clock, State.rxTick_frame]; rfl
@[simp] theorem State.clock_tx : (s.clock lvl).tx = s.tx.tick s.cfg.invert s.ocr := by
  rw [State.clock, State.rxTick_frame]; rfl
@[simp] theorem State.clock_prev : (s.clock lvl).rx.prev = lvl := s.withLevel_rxLevel lvl
end

theorem State.clock_buffersOk {s : State} (lvl : Bool) (h : s.BuffersOk) : (s.clock lvl).BuffersOk :=
  State.rxEvents_buffersOk (s := s.withLevel lvl) _ h

theorem pinsRxd_pinByte (rxd cts : Bool) : pinsRxd (pinByte rxd cts) = rxd := by
  cases rxd <;> cases cts <;> rfl

theorem pinsCts_pinByte (rxd cts : Bool) : pinsCts (pinByte rxd cts) = cts := by
  cases rxd <;> cases cts <;> rfl

theorem runOps_pins_tick {s : State} (hb : s.cfg.backend = .software) (lvl : Bool) (is : List Instr) :
    runOps (.pins (pinByte (lvl ^^ s.cfg.invert) s.cts) :: .tick :: is) s = runOps is (s.clock lvl) := by
  have hpins : exec (.pins (pinByte (lvl ^^ s.cfg.invert) s.cts)) s =
      .next ((s.setPins (lvl ^^ s.cfg.invert) s.cts).reply .ok []) := by
    show State.ok (s.setPins (pinsRxd _) (pinsCts _)) = _
    rw [pinsRxd_pinByte, pinsCts_pinByte]
    rfl
  simp only [runOps, hpins]
  rw [exec_tick (s := (s.setPins (lvl ^^ s.cfg.invert) s.cts).reply .ok []) hb]
  rfl

/-- A played line is a run of its operations. -/
theorem runOps_lineOps (levels : List Bool) {s : State} (hb : s.cfg.backend = .software) :
    runOps (lineOps s.cfg s.cts levels) s = some (s.play levels) := by
  induction levels generalizing s with
  | nil => rfl
  | cons lvl rest ih =>
    have hrest := ih (s := s.clock lvl) (by rw [State.clock_cfg, hb])
    rw [State.clock_cfg, State.clock_cts] at hrest
    exact (runOps_pins_tick hb lvl _).trans hrest

/-! ### One byte (R205 to R209) -/

/-- `t` is `s` after a line that brings the rest of a byte: of the `l + 1` samples still to take, the first `c + 1`
ticks away and the others `T` ticks apart, each is in the shift register, behind the bits already there, and the byte
is at the end of IN if there was room. -/
structure State.CompletesByte (s : State) (l c T : Nat) (levels : List Bool) (t : State) : Prop where
  armed : t.rx.left = 0
  stopped : t.rx.cnt = 0
  kept : ∀ i, i + l < 7 → t.rx.shift.getLsbD i = s.rx.shift.getLsbD (i + (l + 1))
  sampled : ∀ j ≤ l, levels[c + j * T]? = some (t.rx.shift.getLsbD (7 - l + j))
  stored : t.waitingIn = s.waitingIn ++ (if s.freeIn = 0 then [] else [t.rx.shift])

theorem State.freeIn_of_eq {s t : State} (hcfg : t.cfg = s.cfg) (hin : t.rbIn = s.rbIn) : t.freeIn = s.freeIn := by
  rw [State.freeIn, hcfg, hin, State.freeIn]

/-- A tick that completes no byte leaves the inbound ring alone (R209). -/
theorem State.clock_rbIn {s : State} (lvl : Bool) (h : ¬ (s.rx.left = 1 ∧ s.rx.cnt = 1)) :
    (s.clock lvl).rbIn = s.rbIn :=
  (State.rxTick_store (s := s.withLevel lvl) h).1

/-- Such a tick changes neither the bytes waiting in IN nor the room there. -/
theorem State.clock_waitingIn_freeIn {s : State} (lvl : Bool) (h : ¬ (s.rx.left = 1 ∧ s.rx.cnt = 1)) :
    (s.clock lvl).waitingIn = s.waitingIn ∧ (s.clock lvl).freeIn = s.freeIn :=
  ⟨State.waitingIn_of_eq (s.clock_cfg lvl) (State.clock_rbIn lvl h),
    State.freeIn_of_eq (s.clock_cfg lvl) (State.clock_rbIn lvl h)⟩

/-- A tick between two samples (R200). -/
theorem State.clock_rx_of_count {s : State} (lvl : Bool) (hl : s.rx.left ≠ 0) (hc : s.rx.cnt ≠ 1) :
    (s.clock lvl).rx = { s.rx with cnt := s.rx.cnt - 1, prev := lvl } := by
  rw [State.clock, State.reply_rx, State.rxTick_of_count (s := s.withLevel lvl) hl hc, State.withLevel_rxLevel]
  rfl

/-- A tick with a sample due (R209). -/
theorem State.clock_rx_of_due {s : State} (lvl : Bool) (hl : s.rx.left ≠ 0) (hc : s.rx.cnt = 1) :
    (s.clock lvl).rx = ⟨s.rx.left - 1, if s.rx.left = 1 then 0 else bitPeriod s.ocr, shiftIn lvl s.rx.shift, lvl⟩ := by
  rw [State.clock, State.reply_rx, State.rxTick_of_due (s := s.withLevel lvl) hl hc, State.withLevel_rxLevel]
  rfl

/-- The tick with the last sample (R209, R162). -/
theorem State.clock_waitingIn_of_last {s : State} (lvl : Bool) (hs : s.BuffersOk) (hl : s.rx.left = 1)
    (hc : s.rx.cnt = 1) :
    (s.clock lvl).waitingIn = s.waitingIn ++ (if s.freeIn = 0 then [] else [shiftIn lvl s.rx.shift]) := by
  rw [State.clock, State.rxTick_of_last_sample (s := s.withLevel lvl) hl hc, State.withLevel_rxLevel]
  exact State.pushIn_waitingIn_eq (s := s.withLevel lvl) _ hs

section
variable {s t : State} {lvl : Bool} {rest : List Bool} {l c T : Nat}

/-- The last sample. -/
theorem State.completesByte_last (hs : s.BuffersOk) (hl : s.rx.left = 1) (hc : s.rx.cnt = 1) :
    s.CompletesByte 0 0 T [lvl] (s.clock lvl) := by
  have hrx := State.clock_rx_of_due lvl (by simp [hl]) hc
  rw [if_pos hl, hl] at hrx
  have hbit := shiftIn_getLsbD lvl s.rx.shift
  refine ⟨by rw [hrx]; rfl, by rw [hrx], fun i hi => ?_, fun j hj => ?_, ?_⟩
  · rw [hrx, hbit i (by omega), if_neg (by omega)]
  · obtain rfl : j = 0 := by omega
    rw [hrx, hbit 7 (by decide)]
    simp
  · rw [hrx]
    exact State.clock_waitingIn_of_last lvl hs hl hc

/-- A sample before the last one is behind the later ones in the end. -/
theorem State.CompletesByte.of_sample (hl : s.rx.left ≠ 0) (hl1 : s.rx.left ≠ 1) (hl8 : l < 7)
    (hc : s.rx.cnt = 1) (h : (s.clock lvl).CompletesByte l c (c + 1) rest t) :
    s.CompletesByte (l + 1) 0 (c + 1) (lvl :: rest) t := by
  have hrx := State.clock_rx_of_due lvl hl hc
  obtain ⟨hwait, hfree⟩ := State.clock_waitingIn_freeIn (s := s) lvl fun h => hl1 h.1
  obtain ⟨harmed, hstopped, hkept, hsampled, hstored⟩ := h
  rw [hrx] at hkept
  rw [hwait, hfree] at hstored
  refine ⟨harmed, hstopped, fun i hi => ?_, fun j hj => ?_, hstored⟩
  · rw [hkept i (by omega), shiftIn_getLsbD _ _ _ (by omega), if_neg (by omega), Nat.add_assoc]
  · rcases j with _ | j
    · have hbit := hkept (6 - l) (by omega)
      rw [shiftIn_getLsbD _ _ _ (by omega), if_pos (by omega)] at hbit
      simp [← hbit, show 7 - (l + 1) = 6 - l by omega]
    · rw [show 0 + (j + 1) * (c + 1) = c + j * (c + 1) + 1 by ring, List.getElem?_cons_succ,
        hsampled j (by omega), show 7 - (l + 1) + (j + 1) = 7 - l + j by omega]

/-- A tick between two samples. -/
theorem State.CompletesByte.of_count (hl : s.rx.left ≠ 0) (hc : s.rx.cnt ≠ 1)
    (h : (s.clock lvl).CompletesByte l c T rest t) : s.CompletesByte l (c + 1) T (lvl :: rest) t := by
  have hrx := State.clock_rx_of_count lvl hl hc
  obtain ⟨hwait, hfree⟩ := State.clock_waitingIn_freeIn (s := s) lvl fun h => hc h.2
  obtain ⟨harmed, hstopped, hkept, hsampled, hstored⟩ := h
  rw [hrx] at hkept
  rw [hwait, hfree] at hstored
  refine ⟨harmed, hstopped, hkept, fun j hj => ?_, hstored⟩
  rw [Nat.add_right_comm, List.getElem?_cons_succ, hsampled j hj]

end

/-- A line of the length of the samples still to take completes the byte. -/
theorem State.play_completesByte (levels : List Bool) {s : State} {l c T : Nat} (hs : s.BuffersOk)
    (hT : T = s.ocr.toNat + 1) (hleft : s.rx.left.toNat = l + 1) (hl8 : l < 8) (hcnt : s.rx.cnt.toNat = c + 1)
    (hlen : levels.length = c + l * T + 1) : s.CompletesByte l c T levels (s.play levels) := by
  induction levels generalizing s l c with
  | nil => simp at hlen
  | cons lvl rest ih =>
    rw [List.length_cons, Nat.add_right_cancel_iff] at hlen
    have hl0 : s.rx.left ≠ 0 := by bv_omega
    have hok := State.clock_buffersOk lvl hs
    have hT' : T = (s.clock lvl).ocr.toNat + 1 := by rw [State.clock_ocr, hT]
    rcases c with _ | c
    · have hc1 : s.rx.cnt = 1 := by bv_omega
      have hrx := State.clock_rx_of_due lvl hl0 hc1
      rcases l with _ | l
      · obtain rfl : rest = [] := List.eq_nil_of_length_eq_zero (by omega)
        exact State.completesByte_last hs (by bv_omega) hc1
      · have hl1 : s.rx.left ≠ 1 := by bv_omega
        rw [if_neg hl1] at hrx
        have hp := bitPeriod_toNat s.ocr
        subst hT
        refine State.CompletesByte.of_sample hl0 hl1 (by omega) hc1 (ih hok hT' ?_ (by omega) ?_ ?_)
        · rw [hrx]
          show (s.rx.left - 1).toNat = l + 1
          bv_omega
        · rw [hrx, hp]
        · rw [hlen]
          ring
    · have hc1 : s.rx.cnt ≠ 1 := by bv_omega
      have hrx := State.clock_rx_of_count lvl hl0 hc1
      refine State.CompletesByte.of_count hl0 hc1 (ih hok hT' (by rw [hrx, hleft]) hl8 ?_ (by omega))
      rw [hrx]
      show (s.rx.cnt - 1).toNat = c + 1
      bv_omega

/-- An armed receiver on which the line falls takes the byte that the line then carries (R205 to R209). -/
theorem State.play_edge {s : State} {rest : List Bool} {T : Nat} (hs : s.BuffersOk) (hT : T = s.ocr.toNat + 1)
    (hfirst : s.first.toNat = T + T / 4) (hleft : s.rx.left = 0) (hprev : s.rx.prev = true)
    (hlen : rest.length = T + T / 4 + 7 * T) :
    (s.clock false).CompletesByte 7 (T + T / 4 - 1) T rest (s.play (false :: rest)) := by
  have hrx : (s.clock false).rx = { s.rx with left := 8, cnt := s.first, prev := false } := by
    rw [State.clock, State.reply_rx, State.rxTick_of_edge (s := s.withLevel false) hleft hprev
      (s.withLevel_rxLevel false), State.withLevel_rxLevel]
    rfl
  refine State.play_completesByte rest (State.clock_buffersOk false hs) (by rw [State.clock_ocr, hT])
    (by rw [hrx]; rfl) (by decide) ?_ (by omega)
  rw [hrx]
  show s.first.toNat = _
  omega

/-- Settles O54: the tick of the edge, then the rest of the byte. -/
theorem receiverSamplesOnSchedule : Obligations.ReceiverSamplesOnSchedule := by
  intro s t levels T hb hs htime hleft hprev hT hlen hedge hrun
  rw [runOps_lineOps levels hb, Option.some_inj] at hrun
  obtain ⟨-, hfirst⟩ := htime
  rw [← hT] at hfirst
  rcases levels with _ | ⟨lvl, rest⟩
  · simp at hlen
  · obtain rfl : lvl = false := Option.some.inj hedge
    have hbyte := State.play_edge hs hT hfirst hleft hprev (by simpa using hlen)
    obtain ⟨hwait, hfree⟩ := State.clock_waitingIn_freeIn (s := s) false fun h => by simp [hleft] at h
    rw [hrun] at hbyte
    refine ⟨hbyte.armed, hbyte.stopped, fun j hj => ?_, ?_⟩
    · have hbit := hbyte.sampled j (by omega)
      rw [show T + T / 4 + j * T = T + T / 4 - 1 + j * T + 1 by omega, List.getElem?_cons_succ, hbit]
      simp
    · rw [hbyte.stored, hwait, hfree]

end Sys2Proof.Machine
end

section
/-! PROOFS. The loopback property (O55): LTICKs play the transmitter's own line, on which an armed receiver finds the
byte. -/

namespace Sys2Proof.Machine

/-! ### The transmitter's own line (R108, R195) -/

/-- The transmitter after `n` ticks. -/
def State.txAfter (s : State) (n : Nat) : Tx := (fun t : Tx => t.tick s.cfg.invert s.ocr)^[n] s.tx

/-- The logical levels of the transmit pin before each of the next `n` ticks. -/
def State.ownLine (s : State) (n : Nat) : List Bool :=
  (List.range n).map fun i => (s.txAfter i).txd ^^ s.cfg.invert

theorem State.txAfter_clock (s : State) (lvl : Bool) (n : Nat) : (s.clock lvl).txAfter n = s.txAfter (n + 1) := by
  simp [State.txAfter]

theorem State.ownLine_succ (s : State) (n : Nat) :
    s.ownLine (n + 1) =
      (s.tx.txd ^^ s.cfg.invert) :: (s.clock (s.tx.txd ^^ s.cfg.invert)).ownLine n := by
  simp only [State.ownLine, State.txAfter_clock, State.clock_cfg, List.range_succ_eq_map, List.map_cons, List.map_map]
  rfl

theorem ltick_eq_clock {s : State} (hb : s.cfg.backend = .software) :
    ltick s = some (s.clock (s.tx.txd ^^ s.cfg.invert)) := by
  have h := runOps_pins_tick hb (s.tx.txd ^^ s.cfg.invert) []
  rwa [Bool.xor_assoc, Bool.xor_self, Bool.xor_false] at h

/-- LTICKs play the transmitter's own line. -/
theorem lticks_eq_play (n : Nat) {s : State} (hb : s.cfg.backend = .software) :
    lticks n s = some (s.play (s.ownLine n)) := by
  induction n generalizing s with
  | zero => rfl
  | succ n ih =>
    rw [lticks, ltick_eq_clock hb, Option.bind_some, ih (by rw [State.clock_cfg, hb]), State.ownLine_succ]
    rfl

section
variable (levels : List Bool) (s : State)

theorem State.play_cfg : (s.play levels).cfg = s.cfg := by
  induction levels generalizing s with
  | nil => rfl
  | cons lvl rest ih => exact (ih _).trans (s.clock_cfg lvl)

theorem State.play_ocr : (s.play levels).ocr = s.ocr := by
  induction levels generalizing s with
  | nil => rfl
  | cons lvl rest ih => exact (ih _).trans (s.clock_ocr lvl)

theorem State.play_first : (s.play levels).first = s.first := by
  induction levels generalizing s with
  | nil => rfl
  | cons lvl rest ih => exact (ih _).trans (s.clock_first lvl)

theorem State.play_tx : (s.play levels).tx = s.txAfter levels.length := by
  induction levels generalizing s with
  | nil => rfl
  | cons lvl rest ih => exact (ih _).trans (s.txAfter_clock lvl _)

theorem State.play_append (more : List Bool) : s.play (levels ++ more) = (s.play levels).play more :=
  List.foldl_append

theorem State.play_prev (lvl : Bool) : (s.play (levels ++ [lvl])).rx.prev = lvl := by
  rw [State.play_append]
  exact State.clock_prev _ _

end

theorem State.play_buffersOk (levels : List Bool) {s : State} (h : s.BuffersOk) : (s.play levels).BuffersOk := by
  induction levels generalizing s with
  | nil => exact h
  | cons lvl rest ih => exact ih (State.clock_buffersOk lvl h)

/-- A byte just loaded is in flight for `11 T` ticks. -/
theorem State.txAfter_sendingAt {s : State} {line : Bool} {b : Byte} {T n : Nat} (hT : T = s.ocr.toNat + 1)
    (h : Tx.SendingAt line s.cfg.invert b T 0 s.tx) (hn : n < 11 * T) :
    Tx.SendingAt line s.cfg.invert b T n (s.txAfter n) := by
  induction n with
  | zero => exact h
  | succ n ih =>
    rw [State.txAfter, Function.iterate_succ_apply']
    rcases (ih (by omega)).tick hT with ⟨-, hs⟩ | ⟨hend, -⟩
    · exact hs
    · omega

/-- From then on the transmitter is idle. -/
theorem State.txAfter_sent {s : State} {line : Bool} {b : Byte} {T n : Nat} (hT : T = s.ocr.toNat + 1)
    (h : Tx.SendingAt line s.cfg.invert b T 0 s.tx) (hn : 11 * T ≤ n) :
    s.txAfter n = ⟨true, frameAfter b 10, 0, 0, true ^^ s.cfg.invert⟩ := by
  induction n, hn using Nat.le_induction with
  | base =>
    obtain ⟨m, hm⟩ : ∃ m, 11 * T = m + 1 := ⟨11 * T - 1, by omega⟩
    rw [hm, State.txAfter, Function.iterate_succ_apply']
    rcases (State.txAfter_sendingAt hT h (n := m) (by omega)).tick hT with ⟨hlt, -⟩ | ⟨-, e⟩
    · omega
    · exact e
  | succ n _ ih =>
    rw [State.txAfter, Function.iterate_succ_apply']
    exact (congrArg (Tx.tick · s.cfg.invert s.ocr) ih).trans (if_pos rfl)

/-- The line of a byte loaded with the line idle: bit `n / T` before tick `n + 1`. -/
theorem State.txAfter_line {s : State} {b : Byte} {T : Nat} (hT : T = s.ocr.toNat + 1)
    (h : Tx.SendingAt (true ^^ s.cfg.invert) s.cfg.invert b T 0 s.tx) (n : Nat) :
    ((s.txAfter n).txd ^^ s.cfg.invert) = bitLevel b (n / T) := by
  by_cases hn : n < 11 * T
  · obtain ⟨c, e, -⟩ := (State.txAfter_sendingAt hT h hn).eq_sending
    have htxd : (s.txAfter n).txd = (bitLevel b (n / T) ^^ s.cfg.invert) := by
      rw [e]
      by_cases hk : n / T = 0
      · rw [hk]; rfl
      · exact if_neg hk
    rw [htxd, Bool.xor_assoc, Bool.xor_self, Bool.xor_false]
  · have hk : 11 ≤ n / T := (Nat.le_div_iff_mul_le (by omega)).2 (by omega)
    rw [State.txAfter_sent hT h (by omega), bitLevel_stop b (by omega)]
    simp

/-! ### The byte on the line -/

/-- A line that does not fall leaves an armed receiver and the ring as they are (R204). -/
theorem State.play_quiet (levels : List Bool) {s : State} (hl : s.rx.left = 0)
    (hq : (s.rx.prev :: levels).Pairwise (· ≤ ·)) :
    (s.play levels).rx.left = 0 ∧ (s.rx.prev = true → (s.play levels).rx.prev = true) ∧
      (s.play levels).rbIn = s.rbIn := by
  induction levels generalizing s with
  | nil => exact ⟨hl, id, rfl⟩
  | cons lvl rest ih =>
    obtain ⟨hfst, hrest⟩ := List.pairwise_cons.1 hq
    have hno : ¬ (s.rx.prev = true ∧ lvl = false) := by
      have hle := hfst lvl List.mem_cons_self
      rintro ⟨hp, rfl⟩
      rw [hp] at hle
      exact absurd hle (by decide)
    have hleft : (s.clock lvl).rx.left = 0 := by
      rw [State.clock, State.reply_rx,
        State.rxTick_of_quiet (s := s.withLevel lvl) hl (by rwa [State.withLevel_rxLevel])]
      exact hl
    obtain ⟨hl', hp', hin⟩ := ih hleft (by rwa [State.clock_prev])
    rw [State.clock_prev] at hp'
    exact ⟨hl', fun hp => hp' (by simpa [hp] using hno), hin.trans (State.clock_rbIn lvl fun h => by simp [hl] at h)⟩

/-- The levels of the ticks `m` to `m + n - 1` after a byte `b` was loaded. -/
def byteLine (b : Byte) (T m n : Nat) : List Bool := (List.range n).map fun i => bitLevel b ((m + i) / T)

theorem byteLine_append (b : Byte) (T m n k : Nat) :
    byteLine b T m (n + k) = byteLine b T m n ++ byteLine b T (m + n) k := by
  simp [byteLine, List.range_add, Nat.add_assoc]

theorem State.play_byteLine_add (s : State) (b : Byte) (T m n k : Nat) :
    s.play (byteLine b T m (n + k)) = (s.play (byteLine b T m n)).play (byteLine b T (m + n) k) := by
  rw [byteLine_append, State.play_append]

theorem byteLine_succ (b : Byte) (T m n : Nat) :
    byteLine b T m (n + 1) = bitLevel b (m / T) :: byteLine b T (m + 1) n := by
  rw [Nat.add_comm n, byteLine_append]
  rfl

theorem byteLine_getElem (b : Byte) {T m n i : Nat} (h : i < n) :
    (byteLine b T m n)[i]? = some (bitLevel b ((m + i) / T)) := by
  simp [byteLine, h]

theorem byteLine_length (b : Byte) (T m n : Nat) : (byteLine b T m n).length = n := by simp [byteLine]

/-- The line is high until the start bit. -/
theorem byteLine_idle (b : Byte) (T : Nat) : byteLine b T 0 T = List.replicate T true := by
  refine List.eq_replicate_iff.2 ⟨byteLine_length b T 0 T, fun lvl hlvl => ?_⟩
  obtain ⟨i, hi, rfl⟩ := List.mem_map.1 hlvl
  rw [Nat.zero_add, Nat.div_eq_of_lt (List.mem_range.1 hi)]
  rfl

/-- From the last data bit on the line does not fall. -/
theorem byteLine_tail (b : Byte) {T m : Nat} (hT : 0 < T) (hm : 9 * T ≤ m) (n : Nat) :
    (byteLine b T m n).Pairwise (· ≤ ·) := by
  refine List.pairwise_map.2 (List.pairwise_lt_range.imp fun {i j} hij => ?_)
  have h9 : 9 ≤ (m + i) / T := (Nat.le_div_iff_mul_le hT).2 (by omega)
  have hle : (m + i) / T ≤ (m + j) / T := Nat.div_le_div_right (by omega)
  by_cases heq : (m + i) / T = (m + j) / T
  · rw [heq]
  · rw [bitLevel_stop b (k := (m + j) / T) (by omega)]
    exact Bool.le_true _

/-- The receiver's samples of the line are the data bits (R206, R212). -/
theorem State.CompletesByte.shift_eq {s t : State} {b : Byte} {T : Nat} (hT : 0 < T)
    (h : s.CompletesByte 7 (T + T / 4 - 1) T (byteLine b T (T + 1) (T + T / 4 + 7 * T)) t) : t.rx.shift = b := by
  refine BitVec.eq_of_getLsbD_eq fun j hj => ?_
  have hle : j * T ≤ 7 * T := Nat.mul_le_mul_right T (by omega)
  have hbit := h.sampled j (by omega)
  have hpos : T + 1 + (T + T / 4 - 1 + j * T) = T / 4 + T * (j + 2) := by
    rw [Nat.mul_add, Nat.mul_comm T j]
    omega
  rw [byteLine_getElem b (by omega), hpos, Nat.add_mul_div_left _ _ hT, Nat.div_eq_of_lt (by omega), Nat.zero_add,
    bitLevel_data b hj, Option.some_inj] at hbit
  simpa using hbit.symm

/-- Until the start bit an armed receiver waits (R204). -/
theorem State.play_idleLine {s : State} (b : Byte) (T : Nat) (hleft : s.rx.left = 0) (hprev : s.rx.prev = true) :
    (s.play (byteLine b T 0 T)).rx.left = 0 ∧ (s.play (byteLine b T 0 T)).rx.prev = true ∧
      (s.play (byteLine b T 0 T)).rbIn = s.rbIn := by
  have hq : (s.rx.prev :: byteLine b T 0 T).Pairwise (· ≤ ·) := by
    rw [byteLine_idle, hprev, ← List.replicate_succ]
    exact List.pairwise_replicate_of_refl
  obtain ⟨hleft', hprev', hin⟩ := State.play_quiet _ hleft hq
  exact ⟨hleft', hprev' hprev, hin⟩

/-- From the start bit on the receiver takes the byte, which is complete in the last data bit (R205 to R209, R212). -/
theorem State.play_dataLine {s : State} {b : Byte} {T : Nat} (hs : s.BuffersOk) (hT : T = s.ocr.toNat + 1)
    (hfirst : s.first.toNat = T + T / 4) (hleft : s.rx.left = 0) (hprev : s.rx.prev = true) (hroom : s.freeIn ≠ 0) :
    (s.play (byteLine b T T (T + T / 4 + 7 * T + 1))).rx.left = 0 ∧
      (s.play (byteLine b T T (T + T / 4 + 7 * T + 1))).waitingIn = s.waitingIn ++ [b] := by
  have hpos : 0 < T := by omega
  rw [byteLine_succ, Nat.div_self hpos, bitLevel_start]
  have hbyte := State.play_edge hs hT hfirst hleft hprev (byteLine_length b T (T + 1) (T + T / 4 + 7 * T))
  obtain ⟨hwait, hfree⟩ := State.clock_waitingIn_freeIn (s := s) false fun h => by simp [hleft] at h
  refine ⟨hbyte.armed, ?_⟩
  rw [hbyte.stored, hwait, hfree, if_neg hroom, hbyte.shift_eq hpos]

/-- Behind the last data bit nothing falls that a receiver could take for an edge (R204, R212). -/
theorem State.play_tailLine {s : State} {b : Byte} {T m : Nat} (n : Nat) (hT : 0 < T) (hm : 9 * T ≤ m)
    (hleft : s.rx.left = 0) (hprev : s.rx.prev = bitLevel b (m / T)) :
    (s.play (byteLine b T (m + 1) n)).rbIn = s.rbIn := by
  have hq := byteLine_tail b hT hm (n + 1)
  rw [byteLine_succ, ← hprev] at hq
  obtain ⟨-, -, hin⟩ := State.play_quiet _ hleft hq
  exact hin

/-- The level before the last tick is the one the receiver remembers (R204). -/
theorem State.play_byteLine_prev (s : State) (b : Byte) (T m n : Nat) :
    (s.play (byteLine b T m (n + 1))).rx.prev = bitLevel b ((m + n) / T) := by
  rw [byteLine_append]
  exact s.play_prev _ _

/-- An armed receiver with room in IN takes the byte from the transmitter's line (R212). -/
theorem State.play_byteLine {s : State} (b : Byte) {T : Nat} (hs : s.BuffersOk) (hT : T = s.ocr.toNat + 1)
    (hfirst : s.first.toNat = T + T / 4) (hleft : s.rx.left = 0) (hprev : s.rx.prev = true) (hroom : s.freeIn ≠ 0) :
    (s.play (byteLine b T 0 (11 * T + 1))).waitingIn = s.waitingIn ++ [b] := by
  have hlen : 11 * T + 1 = T + (T + T / 4 + 7 * T + 1 + (2 * T - T / 4)) := by omega
  obtain ⟨hleft1, hprev1, hin1⟩ := State.play_idleLine b T hleft hprev
  have hwait1 := State.waitingIn_of_eq (State.play_cfg _ s) hin1
  have hfree1 := State.freeIn_of_eq (State.play_cfg _ s) hin1
  obtain ⟨hleft2, hwait2⟩ := State.play_dataLine (b := b) (T := T) (State.play_buffersOk _ hs) (by rw [State.play_ocr, hT])
    (by rw [State.play_first, hfirst]) hleft1 hprev1 (by rw [hfree1]; exact hroom)
  have hin3 := State.play_tailLine (2 * T - T / 4) (by omega) (by omega) hleft2 (State.play_byteLine_prev _ b T T _)
  rw [hlen, State.play_byteLine_add, Nat.zero_add, State.play_byteLine_add]
  rw [hwait1] at hwait2
  exact (State.waitingIn_of_eq (State.play_cfg _ _) hin3).trans hwait2

/-! ### Loopback from reset (R212) -/

/-- Two indices at 0: nothing waits (R51, R151). -/
theorem Ring.contents_of_zero (m : Memory) (cap : Nat) : (Ring.mk m 0 0).contents cap = [] :=
  List.eq_nil_of_length_eq_zero ((Ring.contents_length _ _).trans (Ring.used_of_zero m cap))

/-- USB_OUT of one byte, then POLL, with nothing sent or waiting: the byte is loaded (R160, R193). -/
theorem runOps_usbOut_poll {s : State} (b : Byte) (hb : s.cfg.backend = .software) (hs : s.BuffersOk) (hg : s.GatesOk)
    (ha : s.usbAccept = true) (hi : s.tx.idle = true) (hcts : s.cts = true) (hempty : s.waitingOut = []) :
    ∃ t : State, runOps [.usbOut [b], .poll] s = some t ∧ t.BuffersOk ∧ t = { s with
      rbOut := t.rbOut, usbAccept := t.usbAccept, tx := s.tx.load s.ocr b, answer := some ⟨.ok, []⟩ } := by
  obtain ⟨-, -, -, ⟨hpkt, -⟩, -⟩ := s.cfg.valid
  obtain ⟨u, hout, hwait, -, -, -, hu⟩ := usbOutStoresPacket s [b] hs hg ha hpkt
  rw [hempty, List.nil_append] at hwait
  have hused : u.usedOut ≠ 0 := by
    rw [State.usedOut, ← Ring.contents_length]
    exact fun h => by simp [List.eq_nil_of_length_eq_zero h, State.waitingOut] at hwait
  obtain ⟨t, b', hpoll, hhead, ht⟩ := exec_poll_loads (s := u) (by rw [hu]; exact hb) (exec_keeps_gatesOk hout hg)
    (by rw [hu]; exact hi) hused (.inr (by rw [hu]; exact hcts))
  obtain rfl : b = b' := by
    rw [hwait] at hhead
    exact (List.cons.inj hhead).1
  refine ⟨t, by simp [runOps, hout, hpoll], exec_keeps_buffersOk hpoll (exec_keeps_buffersOk hout hs), ?_⟩
  rw [ht, hu]

/-- Settles O55: the 11 T + 1 LTICKs play the byte's line, on which the receiver finds the byte, and the report of
the one byte carries it. -/
theorem loopbackReturnsEveryByte : Obligations.LoopbackReturnsEveryByte := by
  intro c nv b ocr hb
  obtain ⟨hok0, ⟨hg0, -⟩, -⟩ := resetSatisfiesInvariants c nv
  obtain ⟨s, hrun, hok, hs⟩ := runOps_usbOut_poll
    (s := { State.resetOf c nv with ocr := ocr, first := firstOffset ocr }) b hb hok0 hg0 rfl rfl rfl
    (Ring.contents_of_zero _ _)
  have hcfg : s.cfg = c := by rw [hs]; rfl
  have hocr : s.ocr = ocr := by rw [hs]
  have hT : ocr.toNat + 1 = s.ocr.toNat + 1 := by rw [hocr]
  have hsend : Tx.SendingAt (true ^^ s.cfg.invert) s.cfg.invert b (ocr.toNat + 1) 0 s.tx := by
    rw [hcfg, hs]
    exact Tx.sendingAt_zero (Nat.succ_pos _) rfl rfl (bitPeriod_toNat ocr) rfl
  have hline : s.ownLine (11 * (ocr.toNat + 1) + 1) = byteLine b (ocr.toNat + 1) 0 (11 * (ocr.toNat + 1) + 1) := by
    simp only [State.ownLine, byteLine, State.txAfter_line hT hsend, Nat.zero_add]
  have hin : s.rbIn = ⟨[], 0, 0⟩ := by rw [hs]; rfl
  have hempty : s.waitingIn = [] := by rw [State.waitingIn, hin, Ring.contents_of_zero]
  have hroom : s.freeIn ≠ 0 := by
    have := capacity_two_le s.cfg.capIn_mem
    rw [State.freeIn, hin, Ring.free, Ring.used_of_zero]
    omega
  have hwait := State.play_byteLine b hok hT (by rw [hs]; exact firstOffset_toNat ocr) (by rw [hs]; rfl)
    (by rw [hs]; rfl) hroom
  rw [hempty, List.nil_append, ← hline] at hwait
  have hused := (State.waitingIn_length _).symm.trans (congrArg List.length hwait)
  refine ⟨s, _, _, hrun, lticks_eq_play _ (by rw [hcfg, hb]), hused, ?_, exec_usbInReady_data ?_, ?_⟩
  · rw [State.play_tx, State.txAfter_sent hT hsend (by rw [hline, byteLine_length]; omega)]
  · rw [hused]
    exact Nat.one_ne_zero
  · obtain ⟨-, -, ⟨hpkt, -⟩, -⟩ := c.valid
    rw [State.reply_answer, State.reportBytes_eq_take (State.play_buffersOk _ hok), hwait, State.play_cfg, hcfg,
      List.take_of_length_le hpkt]

end Sys2Proof.Machine
end

section
/-! PROOFS. The bridge and line-coding controller: SET_LINE_CODING and GET_LINE_CODING (O43 to O45),
SET_CONTROL_LINE_STATE (O46) and the register map (O47). -/

namespace Sys2Proof.Machine

/-! ### Line coding (R231 to R235) -/

theorem exec_setLineCoding (l : LineCoding) (s : State) :
    exec (.setLineCoding l) s = .next ((s.setLc l).configure.reply .ok []) := rfl

/-- Settles O43: all `configure` does, on the new line coding. -/
theorem setLineCodingStoresAndConfigures : Obligations.SetLineCodingStoresAndConfigures := by
  intro s l
  refine ⟨_, exec_setLineCoding l s, ?_⟩
  rw [State.configure_eq]
  refine ⟨rfl, rfl, firstOffset_toNat _, ?_, rfl⟩
  cases hb : s.cfg.backend <;> simp [hb]

/-- Settles O44. -/
theorem getLineCodingAnswersStoredBytes : Obligations.GetLineCodingAnswersStoredBytes :=
  fun s => s.okWith_eq s.lc.bytes

/-- The line coding belongs to RESET, BUS_RESET and SET_LINE_CODING (R32). -/
theorem exec_keeps_lc {i : Instr} {s t : State} (hi : i ≠ .reset ∧ i ≠ .busReset ∧ ∀ l, i ≠ .setLineCoding l)
    (h : exec i s = .next t) : t.lc = s.lc := by
  obtain ⟨hreset, hbus, hset⟩ := hi
  obtain ⟨-, -, -, -, hlc, -⟩ := onlyNamedOperationsWrite i s t h
  by_contra hne
  obtain rfl | rfl | ⟨l, rfl⟩ := hlc (.inl hne)
  · exact hreset rfl
  · exact hbus rfl
  · exact hset l rfl

/-- Settles O45: SET_LINE_CODING stores the bytes, the operations between keep them, GET_LINE_CODING answers them. -/
theorem lineCodingReadsBackVerbatim : Obligations.LineCodingReadsBackVerbatim := by
  intro is s t u l hset his hrun
  have ht : t.lc = l := by
    obtain ⟨t', ht', hlc, -⟩ := setLineCodingStoresAndConfigures s l
    cases hset.symm.trans ht'
    exact hlc
  have hu : u.lc = l :=
    runOps_keeps (P := (State.lc · = l)) (fun _ _ _ hi h => (exec_keeps_lc hi h).trans) his hrun ht
  rw [← hu]
  exact getLineCodingAnswersStoredBytes u

/-! ### Control line state (R236) -/

theorem lineStateReady_eq (v : Half) : lineStateReady v = decide (v.toNat % 2 = 1) := Nat.testBit_zero _

/-- Settles O46. -/
theorem controlLineStateDrivesDtr : Obligations.ControlLineStateDrivesDtr := by
  intro s v
  rw [← lineStateReady_eq]
  rfl

/-! ### Packed registers (R50) -/

/-- Bit `i` of a packed register is the `i`-th bit given, 0 where none is given. -/
theorem packBits_getElem (bits : List Bool) {i : Nat} (hi : i < 8) :
    (packBits bits)[i] = bits[i]?.getD false := by
  induction bits generalizing i with
  | nil => simp [packBits]
  | cons b rest ih =>
    cases i with
    | zero => simp [packBits]
    | succ i => simpa [packBits] using ih (Nat.lt_of_succ_lt hi)

/-- The bits beyond those given are 0. -/
theorem packBits_toNat_lt (bits : List Bool) : (packBits bits).toNat < 2 ^ bits.length := by
  induction bits with
  | nil => decide
  | cons b rest ih =>
    rw [packBits, BitVec.toNat_or, List.length_cons]
    refine Nat.or_lt_two_pow ?_ ?_
    · rw [BitVec.toNat_shiftLeft, Nat.shiftLeft_eq, Nat.pow_succ]
      exact (Nat.mod_le _ _).trans_lt (by omega)
    · have := Nat.one_lt_two_pow rest.length.succ_ne_zero
      cases b <;> simp

/-! ### Occupancy registers (R50, R151) -/

theorem Ring.usedRegister_toNat {cap : Nat} (hc : cap ∈ capacities) (r : Ring) :
    (BitVec.ofNat 8 (r.used cap)).toNat = (r.contents cap).length := by
  have := Ring.used_lt hc r
  have := capacity_le hc
  rw [Ring.contents_length, BitVec.toNat_ofNat, Nat.mod_eq_of_lt (by omega)]

theorem Ring.freeRegister_toNat {cap : Nat} (hc : cap ∈ capacities) (r : Ring) :
    (BitVec.ofNat 8 (r.free cap)).toNat + (r.contents cap).length = cap - 1 := by
  have := Ring.used_add_free hc r
  have := capacity_le hc
  have := capacity_two_le hc
  rw [Ring.contents_length, BitVec.toNat_ofNat, Nat.mod_eq_of_lt (by omega)]
  omega

/-! ### The register map (R50, R238) -/

theorem Reads.of_register {s : State} {n x : Byte} {is : Byte → Prop} (hn : s.registers[n.toNat]? = some x)
    (hx : is x) : Reads s n is := by
  refine ⟨x, ?_, hx⟩
  simp only [exec, execRdreg, hn, State.okWith_eq]

theorem exec_rdreg_reserved {s : State} {n : Byte} (hn : 0x1C < n.toNat) : exec (.rdreg n) s = s.stall := by
  have hnone : s.registers[n.toNat]? = none := List.getElem?_eq_none hn
  simp only [exec, execRdreg, hnone]

theorem State.status_bits (s : State) :
    s.status.getLsbD 0 = s.tx.idle ∧ s.status.getLsbD 1 = s.usbAccept ∧ s.status.getLsbD 2 = s.rts ∧
      s.status.getLsbD 3 = s.cts ∧ s.status.getLsbD 4 = s.dtr ∧ s.status.getLsbD 5 = s.zlpPending ∧
      (s.status.getLsbD 6 = true ↔ s.cal.phase ≠ .idle) ∧ s.status.getLsbD 7 = (s.ovfOut || s.ovfIn) := by
  simp [State.status, packBits_getElem, State.calBusy, State.faultAny]

theorem State.faultBits_bits (s : State) :
    s.faultBits.getLsbD 0 = s.ovfOut ∧ s.faultBits.getLsbD 1 = s.ovfIn ∧ s.faultBits.toNat < 4 := by
  have hlt : s.faultBits.toNat < 4 := packBits_toNat_lt [s.ovfOut, s.ovfIn]
  refine ⟨?_, ?_, hlt⟩ <;> simp [State.faultBits, packBits_getElem]

theorem State.pinstat_bits (s : State) :
    s.pinstat.getLsbD 0 = s.pinRxd ∧ s.pinstat.getLsbD 1 = s.cts ∧ s.pinstat.getLsbD 2 = s.tx.txd ∧
      s.pinstat.getLsbD 3 = s.rts ∧ s.pinstat.getLsbD 4 = s.dtr ∧ s.pinstat.toNat < 32 := by
  have hlt : s.pinstat.toNat < 32 := packBits_toNat_lt [s.pinRxd, s.cts, s.tx.txd, s.rts, s.dtr]
  refine ⟨?_, ?_, ?_, ?_, ?_, hlt⟩ <;> simp [State.pinstat, packBits_getElem]

/-- Byte `start / 8` of a wider element. -/
theorem extractByte_toNat {w : Nat} (x : BitVec w) (start : Nat) :
    (x.extractLsb' start 8).toNat = x.toNat / 2 ^ start % 256 := by
  rw [BitVec.extractLsb'_toNat, Nat.shiftRight_eq_div_pow]

theorem extractLowByte_toNat {w : Nat} (x : BitVec w) : (x.extractLsb' 0 8).toNat = x.toNat % 256 :=
  (extractByte_toNat x 0).trans (by rw [Nat.pow_zero, Nat.div_one])

theorem highByte_toNat (x : Half) : (highByte x).toNat = x.toNat / 256 :=
  (extractByte_toNat x 8).trans (Nat.mod_eq_of_lt (by omega))

/-- Bit 16 of `first`. -/
theorem topBit_toNat (x : BitVec 17) : ((x.extractLsb' 16 1).setWidth 8).toNat = x.toNat / 65536 := by
  have := x.isLt
  rw [BitVec.toNat_setWidth, BitVec.extractLsb'_toNat, Nat.shiftRight_eq_div_pow]
  omega

theorem CalPhase.code_table (p : CalPhase) :
    (p = .idle → p.code = 0) ∧ (p = .base → p.code = 1) ∧ (p = .splitp → p.code = 2) ∧
      (p = .search → p.code = 3) ∧ (p = .neigh → p.code = 4) := by
  cases p <;> simp [CalPhase.code]

/-- Settles O47: each register is an entry of the map, which ends at 0x1C. -/
theorem registerMapReads : Obligations.RegisterMapReads := by
  intro s
  have hin := s.cfg.capIn_mem
  have hout := s.cfg.capOut_mem
  exact ⟨.of_register rfl s.status_bits, .of_register rfl s.faultBits_bits,
    .of_register rfl (Ring.usedRegister_toNat hin s.rbIn), .of_register rfl (Ring.freeRegister_toNat hin s.rbIn),
    .of_register rfl (Ring.usedRegister_toNat hout s.rbOut), .of_register rfl (Ring.freeRegister_toNat hout s.rbOut),
    -- the ring indices, `osctrim` and `nv`
    .of_register rfl rfl, .of_register rfl rfl, .of_register rfl rfl, .of_register rfl rfl,
    .of_register rfl rfl, .of_register rfl rfl,
    .of_register rfl s.cal.phase.code_table,
    .of_register rfl (extractLowByte_toNat s.ocr), .of_register rfl (highByte_toNat s.ocr),
    .of_register rfl (extractLowByte_toNat s.first), .of_register rfl (extractByte_toNat s.first 8),
    .of_register rfl (topBit_toNat s.first),
    -- the line coding
    .of_register rfl rfl, .of_register rfl rfl, .of_register rfl rfl, .of_register rfl rfl,
    .of_register rfl rfl, .of_register rfl rfl, .of_register rfl rfl,
    .of_register rfl (BitVec.toNat_setWidth_of_le (by decide)),
    .of_register rfl (BitVec.toNat_setWidth_of_le (by decide)), .of_register rfl rfl,
    .of_register rfl s.pinstat_bits, fun _ => exec_rdreg_reserved⟩

end Sys2Proof.Machine
end

section
/-! PROOFS. The hardware backend: POLL_HW's receive and transmit steps (O56, O57), and what does not depend on the
backend that is built (O58). -/

namespace Sys2Proof.Machine

/-! ### POLL_HW's receive step (R251, R252) -/

theorem exec_pollHw {s : State} (hb : s.cfg.backend = .hardware) (flags rxdata : Byte) :
    exec (.pollHw flags rxdata) s =
      .next (((s.hwReceive flags rxdata).hwTransmit flags).2.gateEval.reply .ok
        ((s.hwReceive flags rxdata).hwTransmit flags).1) := by
  simp only [exec, execPollHw, hb]
  rfl

/-- The transmit step and the gates do not bear on what was received. -/
theorem exec_pollHw_received {s : State} (hb : s.cfg.backend = .hardware) (flags rxdata : Byte) :
    ∃ t, exec (.pollHw flags rxdata) s = .next t ∧ t.waitingIn = (s.hwReceive flags rxdata).waitingIn ∧
      t.rbIn = (s.hwReceive flags rxdata).rbIn ∧ t.ovfIn = (s.hwReceive flags rxdata).ovfIn := by
  refine ⟨_, exec_pollHw hb flags rxdata, ?_⟩
  rw [State.hwTransmit_frame]
  exact ⟨rfl, rfl, rfl⟩

/-- A good byte for which there is room is stored in the cell at the write index (R152, R252). -/
theorem State.hwReceive_of_room {s : State} {flags : Byte} (rxdata : Byte) (hv : flagRxValid flags = true)
    (he : flagRxErr flags = false) (hf : s.freeIn ≠ 0) :
    s.hwReceive flags rxdata = s.setIn ⟨Memory.write s.rbIn.mem (slot s.cfg.capIn s.rbIn.wr) rxdata, s.rbIn.rd,
      advance s.cfg.capIn s.rbIn.wr 1⟩ := by
  rcases s.hwReceive_cases flags rxdata with ⟨-, -, -, r, hq, e⟩ | ⟨-, -, h, -⟩ | ⟨h, -⟩
  · rw [e, (Ring.enqueue_eq_some.1 hq).2]
  · exact absurd h hf
  · simp [hv, he] at h

/-- A good byte for which there is no room is recorded as lost (R252). -/
theorem State.hwReceive_of_full {s : State} {flags : Byte} (rxdata : Byte) (hv : flagRxValid flags = true)
    (he : flagRxErr flags = false) (hf : s.freeIn = 0) : s.hwReceive flags rxdata = s.raiseFault .ovfIn := by
  rcases s.hwReceive_cases flags rxdata with ⟨-, -, h, -⟩ | ⟨-, -, -, e⟩ | ⟨h, -⟩
  · exact absurd hf h
  · exact e
  · simp [hv, he] at h

/-- Without a byte, or with one that carries an error flag, nothing happens (R252). -/
theorem State.hwReceive_of_discarded {s : State} {flags : Byte} (rxdata : Byte)
    (h : flagRxValid flags = false ∨ flagRxErr flags = true) : s.hwReceive flags rxdata = s := by
  rcases s.hwReceive_cases flags rxdata with ⟨hv, he, -⟩ | ⟨hv, he, -⟩ | ⟨-, e⟩
  · simp [hv, he] at h
  · simp [hv, he] at h
  · exact e

/-- Settles O56: the three cases of the receive step. -/
theorem pollHwReceives : Obligations.PollHwReceives := by
  intro s flags rxdata hb hs
  obtain ⟨⟨hmem, -, -, hwr⟩, -⟩ := hs
  obtain ⟨t, ht, hwait, hin, hovf⟩ := exec_pollHw_received hb flags rxdata
  refine ⟨t, ht, fun hv he hf => ?_, fun hv he hf => ?_, fun h => ?_⟩
  · rw [hwait, hin, hovf, State.hwReceive_of_room rxdata hv he hf]
    refine ⟨Ring.contents_push s.cfg.capIn_mem hmem hf, rfl, rfl, advance_toNat s.cfg.capIn_mem _ _, fun a ha => ?_⟩
    exact Memory.read_write_of_ne _ _ fun h => ha (h.trans (slot_of_lt hwr))
  · rw [hin, hovf, State.hwReceive_of_full rxdata hv he hf]
    exact ⟨rfl, rfl⟩
  · rw [hin, hovf, State.hwReceive_of_discarded rxdata h]
    exact ⟨rfl, rfl⟩

/-! ### POLL_HW's transmit step (R251, R253) -/

/-- A ready peripheral with clear-to-send gets the oldest byte waiting (R253). -/
theorem State.hwTransmit_of_ready {s : State} {flags : Byte} (hr : flagTxReady flags = true) (hc : s.cts = true)
    (hu : s.usedOut ≠ 0) :
    ∃ b, s.waitingOut = b :: (s.hwTransmit flags).2.waitingOut ∧ (s.hwTransmit flags).1 = [b] ∧
      (s.hwTransmit flags).2.trace = s.trace ++ [.periphTx b] ∧
      (s.hwTransmit flags).2.rbOut.rd.toNat = (s.rbOut.rd.toNat + 1) % s.cfg.capOut := by
  rcases s.hwTransmit_cases flags with ⟨-, -, -, b, r, hd, e⟩ | ⟨h, -⟩
  · refine ⟨b, ?_, ?_⟩
    · rw [e]
      exact Ring.dequeue_contents s.cfg.capOut_mem hd
    · obtain ⟨-, -, rfl⟩ := Ring.dequeue_eq_some.1 hd
      rw [e]
      exact ⟨rfl, rfl, advance_toNat s.cfg.capOut_mem _ _⟩
  · simp [hr, hc, hu] at h

/-- Otherwise nothing is sent (R253). -/
theorem State.hwTransmit_of_blocked {s : State} {flags : Byte}
    (h : flagTxReady flags = false ∨ s.cts = false ∨ s.usedOut = 0) : s.hwTransmit flags = ([], s) := by
  rcases s.hwTransmit_cases flags with ⟨hr, hc, hu, -⟩ | ⟨-, e⟩
  · simp [hr, hc, hu] at h
  · exact e

/-- Settles O57: the receive step leaves alone all that the transmit step reads, and the frame is POLL_HW's. -/
theorem pollHwTransmits : Obligations.PollHwTransmits := by
  intro s flags rxdata hb _
  obtain ⟨r, o, e⟩ : ∃ r o, s.hwReceive flags rxdata = { s with rbIn := r, ovfIn := o } :=
    ⟨_, _, s.hwReceive_frame flags rxdata⟩
  have ht := exec_pollHw hb flags rxdata
  rw [e] at ht
  have hf := exec_frame ht
  refine ⟨_, ht, fun hr hc hu => ?_, fun h => ?_, by rw [hf]⟩
  · obtain ⟨b, hwait, hsent, hrest⟩ := State.hwTransmit_of_ready (s := { s with rbIn := r, ovfIn := o }) hr hc hu
    exact ⟨b, hwait, by rw [State.reply_answer, hsent], hrest⟩
  · rw [State.hwTransmit_of_blocked (s := { s with rbIn := r, ovfIn := o }) h]
    exact ⟨rfl, rfl, rfl⟩

/-! ### The same machine under the other backend -/

/-- The state with backend `b` built in and `events` traced so far. -/
def State.under (s : State) (b : Backend) (events : List Event) : State :=
  { s with cfg := { s.cfg with backend := b, valid := s.cfg.valid }, trace := events }

section
variable (s : State) (b : Backend) (events : List Event)
@[simp] theorem State.under_cal : (s.under b events).cal = s.cal := rfl
@[simp] theorem State.under_rbOut : (s.under b events).rbOut = s.rbOut := rfl
@[simp] theorem State.under_registers : (s.under b events).registers = s.registers := rfl
@[simp] theorem State.under_k : (s.under b events).cfg.k = s.cfg.k := rfl
@[simp] theorem State.under_capOut : (s.under b events).cfg.capOut = s.cfg.capOut := rfl
end

theorem Cfg.eq_of_toParams_eq {c c' : Cfg} (h : c.toParams = c'.toParams) : c = c' := by
  cases c
  cases c'
  cases h
  rfl

/-- A state that differs from `s` in the backend alone is `s` under that backend. -/
theorem State.eq_under {s s' : State} (hs : s' = { s with cfg := s'.cfg })
    (hp : s'.cfg.toParams = { s.cfg.toParams with backend := s'.cfg.backend }) :
    s' = s.under s'.cfg.backend s.trace := by
  have hcfg : s'.cfg = (s.under s'.cfg.backend s.trace).cfg := Cfg.eq_of_toParams_eq hp
  exact hs.trans (congrArg (fun c => { s with cfg := c }) hcfg)

/-! ### The shared operations -/

/-- `f` does to `s` the same under either backend, and hands no line coding to a peripheral. -/
def State.ActsAlike (s : State) (f : State → State) : Prop :=
  ∃ events, events.filter Event.isPeriphCfg = [] ∧
    ∀ b before, f (s.under b before) = (f s).under b (before ++ events)

/-- What traces nothing acts alike; for most operations the hypothesis holds by unfolding. -/
theorem State.actsAlike_of_silent (s : State) (f : State → State)
    (h : ∀ b before, f (s.under b before) = (f s).under b before := by exact fun _ _ => rfl) : s.ActsAlike f :=
  ⟨[], rfl, fun b before => (h b before).trans (congrArg _ (List.append_nil before).symm)⟩

/-- What ends by applying a trial trim and asking for its measurement acts alike (R120). -/
theorem State.actsAlike_of_probe (s : State) (f : State → State)
    (h : ∀ b before, f (s.under b before) =
      (f s).under b (before ++ [.trimWrite (f s).osctrim] ++ [.measRequest]) := by exact fun _ _ => rfl) :
    s.ActsAlike f :=
  ⟨[.trimWrite (f s).osctrim] ++ [.measRequest], rfl, fun b before =>
    (h b before).trans (congrArg _ (List.append_assoc _ _ _))⟩

/-- A decision that does not ask for the backend. -/
theorem State.ActsAlike.ite {s : State} {c : State → Prop} [DecidablePred c] {f g : State → State}
    (hf : s.ActsAlike f) (hg : s.ActsAlike g)
    (hc : ∀ b before, c (s.under b before) ↔ c s := by exact fun _ _ => Iff.rfl) :
    s.ActsAlike fun u => if c u then f u else g u := by
  simp only [State.ActsAlike, hc]
  by_cases h : c s
  · simp only [h, if_true]
    exact hf
  · simp only [h, if_false]
    exact hg

theorem State.stepBase_actsAlike (s : State) (x : Half) : s.ActsAlike (State.stepBase · x) := by
  simp only [State.stepBase]
  exact .ite (s.actsAlike_of_probe _) (s.actsAlike_of_probe _)

theorem State.stepSplit_actsAlike (s : State) (x : Half) : s.ActsAlike (State.stepSplit · x) :=
  s.actsAlike_of_probe _

theorem State.stepSearch_actsAlike (s : State) (x : Half) : s.ActsAlike (State.stepSearch · x) := by
  simp only [State.stepSearch, State.finishSearch]
  have habandon : s.ActsAlike fun u =>
      ((u.setCal { u.cal with coarse := u.cal.trial }).applyTrim u.cal.saved).setCal
        { u.cal with coarse := u.cal.trial, phase := .idle } :=
    ⟨[.trimWrite s.cal.saved], rfl, fun _ _ => rfl⟩
  exact .ite (.ite habandon (s.actsAlike_of_probe _)) (s.actsAlike_of_probe _)

theorem State.finishPass_actsAlike (s : State) : s.ActsAlike State.finishPass := by
  simp only [State.ActsAlike, State.finishPass_eq]
  refine ⟨[.trimWrite s.cal.best] ++ (if s.cal.best = s.nv then [] else [.nvWrite s.cal.best]), ?_, fun b before => ?_⟩
  · split <;> rfl
  · rw [← List.append_assoc]
    rfl

theorem State.stepNeigh_actsAlike (s : State) (x : Half) : s.ActsAlike (State.stepNeigh · x) := by
  simp only [State.ActsAlike, State.stepNeigh, State.under_cal, State.under_k]
  cases s.cal.nextCand s.cfg.k (s.cal.idx.toNat + 1) with
  | none => exact (s.setCal (s.scoreCand x)).finishPass_actsAlike
  | some j =>
    exact s.actsAlike_of_probe fun u =>
      (u.setCal { u.scoreCand x with idx := BitVec.ofNat 3 j }).probe (trimOf u.cfg (u.cal.cand j))

theorem State.pushOut_under (s : State) (byte : Byte) (b : Backend) (before : List Event) :
    (s.under b before).pushOut byte = (s.pushOut byte).under b before := by
  simp only [State.pushOut, State.under_rbOut, State.under_capOut]
  cases s.rbOut.enqueue s.cfg.capOut byte <;> rfl

theorem State.foldl_pushOut_actsAlike (s : State) (data : List Byte) :
    s.ActsAlike fun s => (data.foldl State.pushOut s).gateEval :=
  s.actsAlike_of_silent _ fun b before =>
    congrArg State.gateEval (List.foldl_hom (State.under · b before) fun s byte => s.pushOut_under byte b before)

/-! ### The operations (R254, R255) -/

/-- The `periph_cfg` by which operation `i` hands line coding `l` to the peripheral under backend `b` (R255). -/
def handover (i : Instr) (b : Backend) (l : LineCoding) : List Event :=
  if i.configures = true ∧ b = .hardware then [.periphCfg l] else []

/-- All `configure` does under backend `b`, in an operation that calls it (R191, R255). -/
theorem State.configure_under (s : State) (b : Backend) (before : List Event) {i : Instr} (hi : i.configures = true) :
    (s.under b before).configure = s.retime.under b (before ++ handover i b s.lc) := by
  rw [State.configure_eq, handover, hi]
  cases b <;> rfl

/-- Operation `i` ends alike under either backend, but for the hand-over of the line coding. -/
def State.EndsAlike (s : State) (i : Instr) : Prop :=
  ∃ (t : State) (before after : List Event),
    before.filter Event.isPeriphCfg = [] ∧ after.filter Event.isPeriphCfg = [] ∧
    ∀ b trace, exec i (s.under b trace) = .next (t.under b (trace ++ (before ++ handover i b t.lc ++ after)))

/-- An operation that does not configure. -/
theorem State.ActsAlike.endsAlike {s : State} {f : State → State} (hf : s.ActsAlike f) {i : Instr} (st : Status)
    (bytes : List Byte) (h : ∀ b trace, exec i (s.under b trace) = .next ((f (s.under b trace)).reply st bytes))
    (hi : i.configures = false := by rfl) : s.EndsAlike i := by
  obtain ⟨events, hq, hf⟩ := hf
  refine ⟨(f s).reply st bytes, events, [], hq, rfl, fun b trace => ?_⟩
  rw [h, hf, handover, hi, if_neg (by simp), List.append_nil, List.append_nil]
  rfl

/-- An operation that configures between `f` and `g`. -/
theorem State.ActsAlike.endsAlike_of_configures {s : State} {f g : State → State} (hf : s.ActsAlike f)
    (hg : (f s).retime.ActsAlike g) (hlc : (g (f s).retime).lc = (f s).lc) {i : Instr}
    (h : ∀ b trace, exec i (s.under b trace) = .next ((g (f (s.under b trace)).configure).reply .ok []))
    (hi : i.configures = true := by rfl) : s.EndsAlike i := by
  obtain ⟨before, hqf, hf⟩ := hf
  obtain ⟨after, hqg, hg⟩ := hg
  refine ⟨(g (f s).retime).reply .ok [], before, after, hqf, hqg, fun b trace => ?_⟩
  rw [h, hf, State.configure_under _ _ _ hi, hg, State.reply_lc, hlc, List.append_assoc, List.append_assoc,
    ← List.append_assoc before]
  rfl

/-- Operation by operation; only POLL, POLL_HW and TICK ask for the backend. -/
theorem exec_endsAlike {i : Instr} (hpoll : i ≠ .poll) (htick : i ≠ .tick)
    (hhw : ∀ flags rxdata, i ≠ .pollHw flags rxdata) (s : State) : s.EndsAlike i := by
  have hid := s.actsAlike_of_silent id
  cases i with
  | poll => exact absurd rfl hpoll
  | tick => exact absurd rfl htick
  | pollHw flags rxdata => exact absurd rfl (hhw flags rxdata)
  | reset =>
    have hload : s.ActsAlike (fun s => s.clearAll.loadTrim) :=
      ⟨[.trimWrite (bootTrim s.cfg s.nv)], rfl, fun _ _ => rfl⟩
    exact hload.endsAlike_of_configures (State.actsAlike_of_silent _ id) rfl fun _ _ => rfl
  | busReset =>
    have hset := s.actsAlike_of_silent (fun s => s.setLc s.cfg.defaultLc)
    by_cases hp : s.cal.phase = .idle
    · refine hset.endsAlike_of_configures
        (g := fun u => (u.setCal { s.cal with saved := s.osctrim, phase := .base }).emit .measRequest)
        ⟨[.measRequest], rfl, fun _ _ => rfl⟩ rfl fun b trace => ?_
      simp only [exec, execBusReset, State.under_cal, hp, if_true]
      rfl
    · refine hset.endsAlike_of_configures
        (g := fun u => ((u.applyTrim s.cal.saved).setCal { s.cal with phase := .base }).emit .measRequest)
        (State.actsAlike_of_probe _ _) rfl fun b trace => ?_
      simp only [exec, execBusReset, State.under_cal, hp, if_false]
      rfl
  | setLineCoding l =>
    exact (s.actsAlike_of_silent (State.setLc · l)).endsAlike_of_configures (State.actsAlike_of_silent _ id) rfl
      fun _ _ => rfl
  | meas x =>
    cases hp : s.cal.phase with
    | idle =>
      refine hid.endsAlike .nak [] fun b trace => ?_
      simp only [exec, execMeas, State.under_cal, hp]
      rfl
    | base => exact (s.stepBase_actsAlike x).endsAlike .ok [] fun b trace => exec_meas_base (s := s.under b trace) x hp
    | splitp =>
      exact (s.stepSplit_actsAlike x).endsAlike .ok [] fun b trace => exec_meas_splitp (s := s.under b trace) x hp
    | search =>
      exact (s.stepSearch_actsAlike x).endsAlike .ok [] fun b trace => exec_meas_search (s := s.under b trace) x hp
    | neigh =>
      exact (s.stepNeigh_actsAlike x).endsAlike .ok [] fun b trace => exec_meas_neigh (s := s.under b trace) x hp
  | usbOut data =>
    by_cases hl : s.cfg.pktOut < data.length
    · exact hid.endsAlike .stall [] fun _ _ => if_pos hl
    · by_cases ha : s.usbAccept = true
      · exact (s.foldl_pushOut_actsAlike data).endsAlike .ok [] fun _ _ => (if_neg hl).trans (if_pos ha)
      · exact hid.endsAlike .nak [] fun _ _ => (if_neg hl).trans (if_neg ha)
  | usbInReady =>
    by_cases hu : 0 < s.usedIn
    · exact (s.actsAlike_of_silent State.drainIn).endsAlike .ok s.reportBytes fun _ _ => if_pos hu
    · by_cases hz : s.zlpPending = true
      · exact (s.actsAlike_of_silent (State.setZlp · false)).endsAlike .ok [] fun _ _ =>
          (if_neg hu).trans (if_pos hz)
      · exact hid.endsAlike .nak [] fun _ _ => (if_neg hu).trans (if_neg hz)
  | rdreg n =>
    cases hn : s.registers[n.toNat]? with
    | some x =>
      refine hid.endsAlike .ok [x] fun b trace => ?_
      simp only [exec, execRdreg, State.under_registers, hn]
      rfl
    | none =>
      refine hid.endsAlike .stall [] fun b trace => ?_
      simp only [exec, execRdreg, State.under_registers, hn]
      rfl
  | getLineCoding => exact hid.endsAlike .ok s.lc.bytes fun _ _ => rfl
  | setControlLineState v =>
    exact (s.actsAlike_of_silent (State.setDtr · (lineStateReady v))).endsAlike .ok [] fun _ _ => rfl
  | pins p =>
    exact (s.actsAlike_of_silent (State.setPins · (pinsRxd p) (pinsCts p))).endsAlike .ok [] fun _ _ => rfl

/-- A hand-over is `periph_cfg` and nothing else. -/
theorem handover_filter (i : Instr) (b : Backend) (l : LineCoding) :
    (handover i b l).filter Event.isPeriphCfg = handover i b l ∧
      (handover i b l).filter (fun e => !e.isPeriphCfg) = [] := by
  unfold handover
  split <;> exact ⟨rfl, rfl⟩

theorem handover_eq_nil {i : Instr} (hreset : i ≠ .reset) (hbus : i ≠ .busReset) (hset : ∀ l, i ≠ .setLineCoding l)
    (b : Backend) (l : LineCoding) : handover i b l = [] := by
  cases i with
  | reset => exact absurd rfl hreset
  | busReset => exact absurd rfl hbus
  | setLineCoding l => exact absurd rfl (hset l)
  | _ => rfl

/-- Settles O58: one run, under the backend of `s` and under that of `s'`. -/
theorem backendsAgreeElsewhere : Obligations.BackendsAgreeElsewhere := by
  intro i s s' hs hp hpoll htick hhw
  obtain ⟨t, before, after, hbefore, hafter, hrun⟩ := exec_endsAlike hpoll htick hhw s
  have hexec : exec i s = _ := hrun s.cfg.backend s.trace
  have hexec' : exec i s' = _ := (congrArg (exec i) (State.eq_under hs hp)).trans (hrun s'.cfg.backend s.trace)
  have hfilter (b : Backend) :
      (before ++ handover i b t.lc ++ after).filter Event.isPeriphCfg = handover i b t.lc := by
    simp [hbefore, hafter, handover_filter]
  refine ⟨_, _, hexec, hexec', ?_, ⟨_, _, rfl, rfl, ?_, hfilter _, hfilter _⟩, fun hreset hbus hset => ?_⟩
  · rw [← exec_cfg hexec']
    rfl
  · simp [handover_filter]
  · simp only [State.under, handover_eq_nil hreset hbus hset]

end Sys2Proof.Machine
end

section
/-! PROOFS. Refusals: which operations are refused, and that a refusal changes nothing (O9, O10). -/

namespace Sys2Proof.Machine

/-- The status R260 gives operation `i`, its checks in the order of R262. -/
def State.verdict (s : State) : Instr → Status
  | .meas _ => if s.cal.phase = .idle then .nak else .ok
  | .usbOut data => if s.cfg.pktOut < data.length then .stall else if s.usbAccept then .ok else .nak
  | .usbInReady => if s.usedIn = 0 ∧ s.zlpPending = false then .nak else .ok
  | .poll => if s.cfg.backend = .hardware then .stall else .ok
  | .tick => if s.cfg.backend = .hardware then .stall else .ok
  | .pollHw _ _ => if s.cfg.backend = .software then .stall else .ok
  | .rdreg n => if 0x1C < n.toNat then .stall else .ok
  | .reset | .busReset | .setLineCoding _ | .getLineCoding | .setControlLineState _ | .pins _ => .ok

theorem State.verdict_eq_nak_iff {s : State} {i : Instr} :
    s.verdict i = .nak ↔
      (∃ x, i = .meas x ∧ s.cal.phase = .idle) ∨
      (∃ data, i = .usbOut data ∧ s.usbAccept = false ∧ data.length ≤ s.cfg.pktOut) ∨
      (i = .usbInReady ∧ s.usedIn = 0 ∧ s.zlpPending = false) := by
  cases i with
  | usbOut data => simp [State.verdict, ite_eq_iff, and_comm]
  | _ => simp [State.verdict, ite_eq_iff]

theorem State.verdict_eq_stall_iff {s : State} {i : Instr} :
    s.verdict i = .stall ↔
      (∃ data, i = .usbOut data ∧ s.cfg.pktOut < data.length) ∨
      ((i = .poll ∨ i = .tick) ∧ s.cfg.backend = .hardware) ∨
      (∃ flags rxdata, i = .pollHw flags rxdata ∧ s.cfg.backend = .software) ∨
      (∃ n, i = .rdreg n ∧ 0x1C < n.toNat) := by
  cases i <;> simp [State.verdict, ite_eq_iff]

/-- Every way an operation can end answers with the status R260 gives it. -/
theorem Effect.answer_status {i : Instr} {s t : State} (h : Effect s i t) :
    t.answer.map Answer.status = some (s.verdict i) := by
  cases h with
  | rdreg n x hn =>
    have hlt : n.toNat < 0x1D := (List.getElem?_eq_some_iff.1 hn).1
    simp [State.verdict, Nat.le_of_lt_succ hlt]
  | rdregReserved n hn =>
    have hle : 0x1D ≤ n.toNat := List.getElem?_eq_none_iff.1 hn
    simp [State.verdict, Nat.lt_of_succ_le hle]
  | report hu => simp [State.verdict, hu.ne']
  | usbOut data hl ha | usbOutClosed data hl ha => simp [State.verdict, hl, ha]
  | _ => simp [State.verdict, *]

/-- An operation that does not answer OK has only answered. -/
theorem Effect.eq_reply_of_refused {i : Instr} {s t : State} (h : Effect s i t) {a : Answer} (ha : t.answer = some a)
    (hst : a.status ≠ .ok) : t = s.reply a.status a.bytes := by
  cases h with
  | pollUnavailable | pollHwUnavailable | measIdle | usbOutTooLong | usbOutClosed | nothingToReport
  | tickUnavailable | rdregReserved => cases ha; rfl
  | _ => cases ha; exact absurd rfl hst

theorem Answer.exists_bytes_iff {answer : Option Answer} {st : Status} :
    (∃ bytes, answer = some ⟨st, bytes⟩) ↔ answer.map Answer.status = some st := by
  rw [Option.map_eq_some_iff]
  constructor
  · rintro ⟨bytes, h⟩
    exact ⟨_, h, rfl⟩
  · rintro ⟨a, h, rfl⟩
    exact ⟨a.bytes, h⟩

/-- Settles O9: what is answered NAK or STALL is answered only. -/
theorem refusalChangesNothing : Obligations.RefusalChangesNothing :=
  fun _ _ _ _ hexec ha hst => (exec_effect hexec).eq_reply_of_refused ha hst

/-- Settles O10: the status answered is that of R260's list. -/
theorem refusalsAreExactlyListed : Obligations.RefusalsAreExactlyListed := by
  intro i s t h
  have hstatus (st : Status) : (∃ bytes, t.answer = some ⟨st, bytes⟩) ↔ s.verdict i = st := by
    rw [Answer.exists_bytes_iff, (exec_effect h).answer_status, Option.some_inj]
  exact ⟨(hstatus .nak).trans State.verdict_eq_nak_iff, (hstatus .stall).trans State.verdict_eq_stall_iff⟩

end Sys2Proof.Machine
end

section
/-! PROOFS. The fault bits gate nothing (O60): two states that differ there alone end every operation alike, but for
RDREG of the two registers that show them. -/

namespace Sys2Proof.Machine

/-- Each listed way of ending is the way the operation ends: the converse of `exec_effect`. -/
theorem Effect.exec_eq {i : Instr} {s t : State} (h : Effect s i t) : exec i s = .next t := by
  cases h with
  | poll hb | pollUnavailable hb => simp only [exec, execPoll, hb]; rfl
  | pollHw flags rxdata hb | pollHwUnavailable flags rxdata hb => simp only [exec, execPollHw, hb]; rfl
  | tick hb | tickUnavailable hb => simp only [exec, execTick, hb]; rfl
  | startPass hp => simp only [exec, execBusReset, hp, if_true]; rfl
  | restartPass hp => simp only [exec, execBusReset, hp, if_false]; rfl
  | measIdle x hp | measBase x hp | measSplit x hp | measSearch x hp | measNeigh x hp =>
    simp only [exec, execMeas, hp]; rfl
  | usbOut data hl ha => exact exec_usbOut_accepted hl ha
  | usbOutTooLong data hl => exact if_pos hl
  | usbOutClosed data hl ha => exact (if_neg hl.not_gt).trans (if_neg (by simp [ha]))
  | report hu => exact if_pos hu
  | emptyReport hu hz => exact (if_neg hu.not_gt).trans (if_pos hz)
  | nothingToReport hu hz => exact (if_neg hu.not_gt).trans (if_neg (by simp [hz]))
  | rdreg n x hn | rdregReserved n hn => simp only [exec, execRdreg, hn]; rfl
  | _ => rfl

/-! ### States that differ in the fault bits -/

/-- The state with other fault bits. -/
def State.withFaults (s : State) (a b : Bool) : State := { s with ovfOut := a, ovfIn := b }

section
variable (s : State) (a b : Bool)
@[simp] theorem State.withFaults_cfg : (s.withFaults a b).cfg = s.cfg := rfl
@[simp] theorem State.withFaults_cts : (s.withFaults a b).cts = s.cts := rfl
@[simp] theorem State.withFaults_rbIn : (s.withFaults a b).rbIn = s.rbIn := rfl
@[simp] theorem State.withFaults_rbOut : (s.withFaults a b).rbOut = s.rbOut := rfl
@[simp] theorem State.withFaults_cal : (s.withFaults a b).cal = s.cal := rfl
@[simp] theorem State.withFaults_tx : (s.withFaults a b).tx = s.tx := rfl
@[simp] theorem State.withFaults_ocr : (s.withFaults a b).ocr = s.ocr := rfl
@[simp] theorem State.withFaults_txPermitted : (s.withFaults a b).txPermitted = s.txPermitted := rfl
end

/-- Two states that differ at most in the fault bits. -/
def State.SameButFaults (s s' : State) : Prop := ∃ a b, s' = s.withFaults a b

theorem State.SameButFaults.refl (s : State) : s.SameButFaults s := ⟨s.ovfOut, s.ovfIn, rfl⟩

theorem State.sameButFaults_withFaults (s : State) (a b : Bool) : s.SameButFaults (s.withFaults a b) := ⟨a, b, rfl⟩

/-- `f` neither reads nor writes the fault bits. -/
def FaultBlind (f : State → State) : Prop := ∀ s a b, f (s.withFaults a b) = (f s).withFaults a b

/-- For most such operations the hypothesis holds by unfolding. -/
theorem State.SameButFaults.blind {s s' : State} (h : s.SameButFaults s') (f : State → State)
    (hf : FaultBlind f := by exact fun _ _ _ => rfl) : (f s).SameButFaults (f s') := by
  obtain ⟨a, b, rfl⟩ := h
  exact ⟨a, b, hf s a b⟩

/-! ### Operations that neither read nor write the fault bits -/

theorem faultBlind_configure : FaultBlind State.configure := fun s a b => by
  rw [State.configure_eq, State.configure_eq]; rfl

theorem faultBlind_stepBase (x : Half) : FaultBlind (State.stepBase · x) := fun s a b => by
  simp only [State.stepBase, apply_ite (State.withFaults · a b)]; rfl

theorem faultBlind_stepSplit (x : Half) : FaultBlind (State.stepSplit · x) := fun _ _ _ => rfl

theorem faultBlind_stepSearch (x : Half) : FaultBlind (State.stepSearch · x) := fun s a b => by
  simp only [State.stepSearch, State.finishSearch, apply_ite (State.withFaults · a b)]; rfl

theorem faultBlind_stepNeigh (x : Half) : FaultBlind (State.stepNeigh · x) := fun s a b => by
  simp only [State.stepNeigh, State.withFaults_cal, State.withFaults_cfg]
  cases s.cal.nextCand s.cfg.k (s.cal.idx.toNat + 1) with
  | none => simp only [State.finishPass_eq]; rfl
  | some j => rfl

theorem faultBlind_txStart : FaultBlind State.txStart := fun s a b => by
  simp only [State.txStart, State.withFaults_tx, State.withFaults_txPermitted, State.withFaults_rbOut,
    State.withFaults_cfg, State.withFaults_ocr]
  by_cases h : (s.tx.idle && s.txPermitted) = true
  · simp only [h, if_true]
    cases s.rbOut.dequeue s.cfg.capOut <;> rfl
  · simp only [h]
    rfl

theorem faultBlind_pushIn (byte : Byte) : FaultBlind (State.pushIn · byte) := fun s a b => by
  simp only [State.pushIn, State.withFaults_rbIn, State.withFaults_cfg]
  cases s.rbIn.enqueue s.cfg.capIn byte <;> rfl

theorem faultBlind_rxSample (lvl : Bool) : FaultBlind (State.rxSample · lvl) := fun s a b => by
  have hpush (r : Rx) (byte : Byte) : ((s.withFaults a b).setRx r).pushIn byte = _ :=
    faultBlind_pushIn byte (s.setRx r) a b
  simp only [State.rxSample, hpush, apply_ite (State.withFaults · a b)]
  rfl

theorem faultBlind_rxTick : FaultBlind State.rxTick := fun s a b => by
  have hsample (r : Rx) (lvl : Bool) : ((s.withFaults a b).setRx r).rxSample lvl = _ :=
    faultBlind_rxSample lvl (s.setRx r) a b
  have hevents (lvl : Bool) : (s.withFaults a b).rxEvents lvl = (s.rxEvents lvl).withFaults a b := by
    simp only [State.rxEvents, hsample, apply_ite (State.withFaults · a b)]
    rfl
  exact congrArg (State.followLine · s.rxLevel) (hevents s.rxLevel)

/-- The peripheral gets the same byte. -/
theorem State.hwTransmit_withFaults (s : State) (flags : Byte) (a b : Bool) :
    (s.withFaults a b).hwTransmit flags = ((s.hwTransmit flags).1, (s.hwTransmit flags).2.withFaults a b) := by
  simp only [State.hwTransmit, State.withFaults_cts, State.withFaults_rbOut, State.withFaults_cfg]
  by_cases h : (flagTxReady flags && s.cts) = true
  · simp only [h, if_true]
    cases s.rbOut.dequeue s.cfg.capOut <;> rfl
  · simp only [h]
    rfl

/-! ### Operations that may raise a fault -/

theorem State.SameButFaults.raiseFault {s s' : State} (h : s.SameButFaults s') (bit : FaultBit) :
    (s.raiseFault bit).SameButFaults (s'.raiseFault bit) := by
  obtain ⟨a, b, rfl⟩ := h
  cases bit with
  | ovfOut => exact ⟨true, b, rfl⟩
  | ovfIn => exact ⟨a, true, rfl⟩

theorem State.SameButFaults.pushOut {s s' : State} (h : s.SameButFaults s') (byte : Byte) :
    (s.pushOut byte).SameButFaults (s'.pushOut byte) := by
  obtain ⟨a, b, rfl⟩ := h
  have hs := s.sameButFaults_withFaults a b
  simp only [State.pushOut, State.withFaults_rbOut, State.withFaults_cfg]
  cases s.rbOut.enqueue s.cfg.capOut byte with
  | none => exact hs.raiseFault .ovfOut
  | some r => exact hs.blind (State.setOut · r)

theorem State.SameButFaults.foldl_pushOut {s s' : State} (h : s.SameButFaults s') (data : List Byte) :
    (data.foldl State.pushOut s).SameButFaults (data.foldl State.pushOut s') := by
  induction data generalizing s s' with
  | nil => exact h
  | cons byte rest ih => exact ih (h.pushOut byte)

theorem State.SameButFaults.hwReceive {s s' : State} (h : s.SameButFaults s') (flags rxdata : Byte) :
    (s.hwReceive flags rxdata).SameButFaults (s'.hwReceive flags rxdata) := by
  obtain ⟨a, b, rfl⟩ := h
  have hs := s.sameButFaults_withFaults a b
  simp only [State.hwReceive, State.withFaults_rbIn, State.withFaults_cfg]
  split
  · cases s.rbIn.enqueue s.cfg.capIn rxdata with
    | none => exact hs.raiseFault .ovfIn
    | some r => exact hs.blind (State.setIn · r)
  · exact hs

/-! ### The operations -/

/-- Only STATUS and FAULT show the bits (R50). -/
theorem State.withFaults_register (s : State) (a b : Bool) {n : Nat} (hn : 2 ≤ n) :
    (s.withFaults a b).registers[n]? = s.registers[n]? := by
  obtain ⟨k, rfl⟩ := Nat.exists_eq_add_of_le' hn
  rfl

/-- Whatever the fault bits, an operation ends in the same way, and in states that differ at most there. -/
theorem Effect.withFaults {i : Instr} {s t : State} (h : Effect s i t) (hread : ∀ n, i = .rdreg n → 2 ≤ n.toNat)
    (a b : Bool) : ∃ t', Effect (s.withFaults a b) i t' ∧ t.SameButFaults t' := by
  have hs := s.sameButFaults_withFaults a b
  have hreply {u u' : State} (hu : u.SameButFaults u') (st : Status) (bytes : List Byte) :
      (u.reply st bytes).SameButFaults (u'.reply st bytes) := hu.blind (State.reply · st bytes)
  have hdefault := (hs.blind (State.setLc · s.cfg.defaultLc)).blind _ faultBlind_configure
  cases h with
  | reset => exact ⟨_, .reset, .refl _⟩
  | poll hb => exact ⟨_, .poll hb, hreply ((hs.blind _ faultBlind_txStart).blind State.gateEval) _ _⟩
  | pollUnavailable hb => exact ⟨_, .pollUnavailable hb, hreply hs _ _⟩
  | pollHw flags rxdata hb =>
    obtain ⟨c, d, hreceive⟩ := hs.hwReceive flags rxdata
    refine ⟨_, .pollHw flags rxdata hb, c, d, ?_⟩
    rw [hreceive, State.hwTransmit_withFaults]
    rfl
  | pollHwUnavailable flags rxdata hb => exact ⟨_, .pollHwUnavailable flags rxdata hb, hreply hs _ _⟩
  | startPass hp => exact ⟨_, .startPass hp, hreply ((hdefault.blind (State.setCal · _)).blind (State.emit · _)) _ _⟩
  | restartPass hp =>
    have htrim := hdefault.blind (State.applyTrim · s.cal.saved)
    exact ⟨_, .restartPass hp, hreply ((htrim.blind (State.setCal · _)).blind (State.emit · _)) _ _⟩
  | measIdle x hp => exact ⟨_, .measIdle x hp, hreply hs _ _⟩
  | measBase x hp => exact ⟨_, .measBase x hp, hreply (hs.blind _ (faultBlind_stepBase x)) _ _⟩
  | measSplit x hp => exact ⟨_, .measSplit x hp, hreply (hs.blind _ (faultBlind_stepSplit x)) _ _⟩
  | measSearch x hp => exact ⟨_, .measSearch x hp, hreply (hs.blind _ (faultBlind_stepSearch x)) _ _⟩
  | measNeigh x hp => exact ⟨_, .measNeigh x hp, hreply (hs.blind _ (faultBlind_stepNeigh x)) _ _⟩
  | usbOut data hl ha => exact ⟨_, .usbOut data hl ha, hreply ((hs.foldl_pushOut data).blind State.gateEval) _ _⟩
  | usbOutTooLong data hl => exact ⟨_, .usbOutTooLong data hl, hreply hs _ _⟩
  | usbOutClosed data hl ha => exact ⟨_, .usbOutClosed data hl ha, hreply hs _ _⟩
  | report hu => exact ⟨_, .report hu, hreply (hs.blind State.drainIn) _ _⟩
  | emptyReport hu hz => exact ⟨_, .emptyReport hu hz, hreply (hs.blind (State.setZlp · false)) _ _⟩
  | nothingToReport hu hz => exact ⟨_, .nothingToReport hu hz, hreply hs _ _⟩
  | setLineCoding l =>
    exact ⟨_, .setLineCoding l, hreply ((hs.blind (State.setLc · l)).blind _ faultBlind_configure) _ _⟩
  | getLineCoding => exact ⟨_, .getLineCoding, hreply hs _ _⟩
  | setControlLineState v =>
    exact ⟨_, .setControlLineState v, hreply (hs.blind (State.setDtr · (lineStateReady v))) _ _⟩
  | pins p => exact ⟨_, .pins p, hreply (hs.blind (State.setPins · (pinsRxd p) (pinsCts p))) _ _⟩
  | tick hb => exact ⟨_, .tick hb, hreply ((hs.blind State.txTick).blind _ faultBlind_rxTick) _ _⟩
  | tickUnavailable hb => exact ⟨_, .tickUnavailable hb, hreply hs _ _⟩
  | rdreg n x hn =>
    exact ⟨_, .rdreg n x ((s.withFaults_register a b (hread n rfl)).trans hn), hreply hs _ _⟩
  | rdregReserved n hn =>
    exact ⟨_, .rdregReserved n ((s.withFaults_register a b (hread n rfl)).trans hn), hreply hs _ _⟩

/-- Settles O60: the operation ends in the same way from both states. -/
theorem faultBitsGateNothing : Obligations.FaultBitsGateNothing := by
  intro i s a b hread
  obtain ⟨t, hexec, heffect⟩ := exec_total i s
  obtain ⟨t', heffect', c, d, rfl⟩ := heffect.withFaults hread a b
  exact ⟨t, _, hexec, heffect'.exec_eq, rfl⟩

end Sys2Proof.Machine
end
